-- ==== Sys2Proof/Word.lean ====
section
/-! DEFINITION. The widths FLPP fixes (R15): the 8-bit byte and the 4-bit record tag. -/

namespace Sys2Proof

/-- The unit of the payload byte space: 8 bits (R15, R50). -/
abbrev Byte := BitVec 8

/-- The record tag: 4 bits (R15, R70). -/
abbrev Tag := BitVec 4

end Sys2Proof
end

