-- ==== Sys2Proof/Config.lean ====
section
/-! DEFINITION. What an instance of FLPP fixes (R10-R14): the `DLDATA_MODE` strap, the buffer depth, the white space
the front end trims, and the hex policy a host may ask for. The spec has no output value a model must draw
(93_implementation_defined.md: "The model needs no draw and no oracle"), so there is no opaque constant here. -/

namespace Sys2Proof

/-- Parameter `DLDATA_MODE` (R10): how the Downlink Acknowledgement record's DownlinkData is built. -/
inductive DlDataMode where
  /-- the 8 payload bytes 4..11; the default -/
  | payload
  /-- the constants 4..11, the behaviour observed in the original -/
  | literal
  deriving DecidableEq, Repr

/-- Parameter `HEX_POLICY` (R13). Only `strict` is a policy FLPP has; a request for the permissive one is refused. -/
inductive HexPolicy where
  | strict
  | permissive
  deriving DecidableEq, Repr

/-- Parameter `PBUF_DEPTH` (R11): the number of payload bytes FLPP stores. -/
def Config.pbufDepth : Nat := 12

/-- The default of `DLDATA_MODE` (R10). -/
def Config.defaultDlDataMode : DlDataMode := .payload

/-- The default of `WS_SET` (R14): HT, LF, VT, FF, CR and SP. -/
def Config.defaultWsSet : List Char :=
  [Char.ofNat 0x09, Char.ofNat 0x0A, Char.ofNat 0x0B, Char.ofNat 0x0C, Char.ofNat 0x0D, Char.ofNat 0x20]

end Sys2Proof
end

