-- ==== Sys2Proof/Syntax.lean ====
section
/-! DEFINITION. The instruction set of FLPP: the operations the record tag selects (R2, R79), one
constructor per row of spec/opcode_table.json. FLPP has no immediates and no register operands (R78): every operand
is a payload byte or bit-field at a constant position, read from `PBUF` when the operation runs. So a constructor
carries no argument, and Machine/Layout.lean holds each operation's operand positions (R73, R74, R75). DESIGN CHOICE, log entry 1. -/

namespace Sys2Proof

/-- The record operations (R79). The tag alone selects one; bits 7..4 of byte 0 never take part. -/
inductive Instr where
  /-- tag 0, format `FMT_POS` (R73, R140) -/
  | positional
  /-- tag 1, format `FMT_DLACK` (R74, R150) -/
  | downlinkAck
  /-- tag 2, format `FMT_STATS` (R75, R160) -/
  | deviceStats
  /-- tag 3, format `FMT_NONE` (R77, R127), as are all the rows below -/
  | unrecognized3
  | unrecognized4
  | unrecognized5
  | unrecognized6
  | unrecognized7
  | unrecognized8
  | unrecognized9
  | unrecognized10
  | unrecognized11
  | unrecognized12
  | unrecognized13
  | unrecognized14
  /-- tag 15 -/
  | unrecognized15
  deriving DecidableEq, Repr

end Sys2Proof
end

