-- ==== Sys2Proof/Machine/Layout.lean ====
section
/-! DEFINITION. The record layouts as data: the five extraction forms of R78 (and the LE16 window they share), one field specification
(source and scale) per row of R73, R74 and R75, and each operation's list of operands and minimum length. The
meanings in Positional, DownlinkAck and DeviceStats read their operands through these specifications, so an offset or a
scale factor is written once. -/

namespace Sys2Proof.Machine

/-- The operand forms of R78, at constant positions in the payload. -/
inductive Extract where
  /-- `BIT(i)`: bit i of byte 0 (R117) -/
  | bit (i : Nat)
  /-- `BYTE(o)` (R110) -/
  | byte (o : Nat)
  /-- `SHR1(o)`: byte o without its bit 0 (R117) -/
  | shr1 (o : Nat)
  /-- `LE16BITS(o, bo, bl)` (R112) -/
  | le16bits (o bo bl : Nat)
  /-- `LE32(o)`: two's complement (R114) -/
  | le32 (o : Nat)
  deriving DecidableEq, Repr

/-- One result field's operand: where it is read and the scale its multiplexer selects (R118). -/
structure FieldSpec where
  src : Extract
  scale : Nat
  deriving DecidableEq, Repr

/-- The number of payload bytes an operand needs: one more than the largest index it reads. -/
def Extract.reach : Extract → Nat
  | .bit _ => 1
  | .byte o => o + 1
  | .shr1 o => o + 1
  | .le16bits o _ _ => o + 2
  | .le32 o => o + 4

/-! `FMT_POS` (R73). -/
def Layout.inTrip : FieldSpec := ⟨.bit 4, 1⟩
def Layout.lastFixFailed : FieldSpec := ⟨.bit 5, 1⟩
def Layout.latRaw : FieldSpec := ⟨.le32 1, 1⟩
def Layout.lonRaw : FieldSpec := ⟨.le32 5, 1⟩
def Layout.headingDeg : FieldSpec := ⟨.byte 9, 2⟩
def Layout.speedKmh : FieldSpec := ⟨.byte 10, 1⟩
def Layout.battMv : FieldSpec := ⟨.byte 11, 25⟩

/-! `FMT_DLACK` (R74). -/
def Layout.dlAccepted : FieldSpec := ⟨.bit 4, 1⟩
def Layout.fwMajor : FieldSpec := ⟨.byte 2, 1⟩
def Layout.fwMinor : FieldSpec := ⟨.byte 3, 1⟩
/-- `DL_DATA[k]` in `PAYLOAD` mode: byte 4 + k (R150). -/
def Layout.dlData (k : Nat) : FieldSpec := ⟨.byte (4 + k), 1⟩
/-- `DL_DATA[k]` in `LITERAL` mode: the constant 4 + k (R150, N21). -/
def Layout.dlLiteral (k : Nat) : Nat := 4 + k

/-! `FMT_STATS` (R75, R161-R170). -/
def Layout.uptimeWeeks : FieldSpec := ⟨.le16bits 0 4 9, 1⟩
def Layout.txCount : FieldSpec := ⟨.le16bits 1 5 11, 32⟩
def Layout.rxCount : FieldSpec := ⟨.byte 3, 32⟩
def Layout.tripCount : FieldSpec := ⟨.le16bits 4 0 13, 1⟩
def Layout.gpsSuccessCount : FieldSpec := ⟨.le16bits 5 5 10, 32⟩
def Layout.gpsFailureCount : FieldSpec := ⟨.le16bits 6 7 8, 32⟩
def Layout.avgFixTimeS : FieldSpec := ⟨.le16bits 7 7 9, 1⟩
def Layout.avgFailTimeS : FieldSpec := ⟨.le16bits 9 0 9, 1⟩
def Layout.avgFreshenTimeS : FieldSpec := ⟨.le16bits 10 1 8, 1⟩
def Layout.wakeupsPerTrip : FieldSpec := ⟨.shr1 11, 1⟩

/-- The operands each operation reads from the payload (R73-R75, R77): none in `FMT_NONE`, and no DownlinkData bytes in
`LITERAL` mode (R74). -/
def operands (mode : DlDataMode) : Instr → List FieldSpec
  | .positional =>
    [Layout.inTrip, Layout.lastFixFailed, Layout.latRaw, Layout.lonRaw, Layout.headingDeg, Layout.speedKmh,
      Layout.battMv]
  | .downlinkAck =>
    [Layout.dlAccepted, Layout.fwMajor, Layout.fwMinor] ++
      (match mode with
        | .payload => [Layout.dlData 0, Layout.dlData 1, Layout.dlData 2, Layout.dlData 3, Layout.dlData 4,
            Layout.dlData 5, Layout.dlData 6, Layout.dlData 7]
        | .literal => [])
  | .deviceStats =>
    [Layout.uptimeWeeks, Layout.txCount, Layout.rxCount, Layout.tripCount, Layout.gpsSuccessCount,
      Layout.gpsFailureCount, Layout.avgFixTimeS, Layout.avgFailTimeS, Layout.avgFreshenTimeS, Layout.wakeupsPerTrip]
  | .unrecognized3 | .unrecognized4 | .unrecognized5 | .unrecognized6 | .unrecognized7 | .unrecognized8
  | .unrecognized9 | .unrecognized10 | .unrecognized11 | .unrecognized12 | .unrecognized13 | .unrecognized14
  | .unrecognized15 => []

/-- The minimum `PLEN` of each operation's format (R82, R128). -/
def minLength (mode : DlDataMode) : Instr → Nat
  | .positional => 12
  | .downlinkAck =>
    match mode with
    | .payload => 12
    | .literal => 4
  | .deviceStats => 12
  | .unrecognized3 | .unrecognized4 | .unrecognized5 | .unrecognized6 | .unrecognized7 | .unrecognized8
  | .unrecognized9 | .unrecognized10 | .unrecognized11 | .unrecognized12 | .unrecognized13 | .unrecognized14
  | .unrecognized15 => 1

end Sys2Proof.Machine
end

