-- ==== Sys2Proof/WellFormed.lean ====
section
/-! DEFINITION. The checks on an operation's operands: the extractor's argument domain (R115), the flag bits BIT may
name (R117), the scale factors a multiplexer may select (R118), and that every read lies below the format's minimum
length (R58, R128). -/

namespace Sys2Proof

/-- "A well-formed extractor use has o a natural number, 0 ≤ bo ≤ 15 and 0 ≤ bl ≤ 16" (R115); BIT is used for the flag
bits 4 and 5 only (R117). -/
def extractWellFormed : Machine.Extract → Bool
  | .bit i => i == 4 || i == 5
  | .byte _ => true
  | .shr1 _ => true
  | .le16bits _ bo bl => decide (bo ≤ 15) && decide (bl ≤ 16)
  | .le32 _ => true

/-- A scaling multiplexer selects one of the constants 1, 2, 25 and 32 (R118). -/
def scaleWellFormed (k : Nat) : Bool := k == 1 || k == 2 || k == 25 || k == 32

/-- One operand, in a format of `need` bytes. -/
def fieldWellFormed (need : Nat) (f : Machine.FieldSpec) : Bool :=
  extractWellFormed f.src && scaleWellFormed f.scale && decide (f.src.reach ≤ need)

/-- An operation whose operands are all well formed, in both `DLDATA_MODE`s. -/
def Instr.wellFormed (i : Instr) : Bool :=
  (Machine.operands .payload i).all (fieldWellFormed (Machine.minLength .payload i)) &&
  (Machine.operands .literal i).all (fieldWellFormed (Machine.minLength .literal i))

end Sys2Proof
end

