-- ==== Sys2Proof/Decode.lean ====
section
/-! DEFINITION. The decoder and, after it, the encoder. The opcode is the low nibble of byte 0 (R70, R79). Decoding is
total: no bytes at all is rejected by name (R126), and each of the sixteen tags selects an operation (R79, R80).
The encoder lays the fields of R73, R74 and R75 out by payload bit number (R17). DESIGN CHOICE, log entry 14: FLPP itself does not encode (R8). -/

namespace Sys2Proof

/-- Why a payload decodes to no operation. -/
inductive DecodeReject where
  /-- the payload has zero bytes: there is no tag to read (R126, R129); the outcome `NONE_EMPTY` -/
  | emptyInput
  deriving DecidableEq, Repr

/-- The opcode map (R79), indexed by the tag. -/
def opcodeMap : Vector Instr 16 :=
  #v[.positional, .downlinkAck, .deviceStats, .unrecognized3, .unrecognized4, .unrecognized5, .unrecognized6,
    .unrecognized7, .unrecognized8, .unrecognized9, .unrecognized10, .unrecognized11, .unrecognized12,
    .unrecognized13, .unrecognized14, .unrecognized15]

/-- `tag = PBUF[0] & 0x0F` (R70). -/
def recordTag (b : Byte) : Tag := b.extractLsb' 0 4

/-- The operation byte 0 selects (R79). -/
def decodeByte0 (b : Byte) : Instr := opcodeMap[(recordTag b).toNat]'(recordTag b).isLt

/-- The decoder, on the payload's bytes in input order (R50). Bytes after byte 0 are operand fields the operation reads
when it runs; the length check is the operation's own (R128). -/
def decode : List Byte → Except DecodeReject Instr
  | [] => .error .emptyInput
  | b :: _ => .ok (decodeByte0 b)

/-- The `k` low bytes of a number, least significant first. -/
def bytesOfNat : Nat → Nat → List Byte
  | 0, _ => []
  | k + 1, w => BitVec.ofNat 8 w :: bytesOfNat k (w / 256)

/-- The payload whose bits are `w`, numbered as R17 numbers them, every bit from `nbits` on being 0: at least 12 bytes,
the longest format (R71). DESIGN CHOICE, log entry 17. -/
def tableWordBytes (nbits w : Nat) : List Byte := bytesOfNat (max 12 ((nbits + 7) / 8)) (w % 2 ^ nbits)

/-- The operation the decoder reads from an instruction whose bits are `w`. -/
def decodeTableWord (nbits w : Nat) : Option Instr :=
  match decode (tableWordBytes nbits w) with
  | .ok i => some i
  | .error .emptyInput => none

/-! The encoder. -/

/-- The tag of each operation (R79). -/
def Instr.tag : Instr → Tag
  | .positional => 0
  | .downlinkAck => 1
  | .deviceStats => 2
  | .unrecognized3 => 3
  | .unrecognized4 => 4
  | .unrecognized5 => 5
  | .unrecognized6 => 6
  | .unrecognized7 => 7
  | .unrecognized8 => 8
  | .unrecognized9 => 9
  | .unrecognized10 => 10
  | .unrecognized11 => 11
  | .unrecognized12 => 12
  | .unrecognized13 => 13
  | .unrecognized14 => 14
  | .unrecognized15 => 15

/-- The bytes of an operation: byte 0 is the format's high nibble above the tag (R72), and `rest` its later bytes. -/
def encode (i : Instr) (high : BitVec 4) (rest : List Byte) : List Byte := (high ++ i.tag) :: rest

/-- The 12 bytes of a 96-bit format: payload bit p is bit p mod 8 of byte p / 8 (R17). -/
def formatBytes (v : BitVec 96) : List Byte := (List.range 12).map fun i => v.extractLsb' (8 * i) 8

/-- The raw fields of `FMT_POS`, in payload-bit order (R73). -/
structure PositionalFields where
  inTrip : BitVec 1
  lastFixFailed : BitVec 1
  /-- byte 0 bits 7..6, which nothing reads (R81) -/
  unused : BitVec 2
  latitude : BitVec 32
  longitude : BitVec 32
  heading : BitVec 8
  speed : BitVec 8
  battery : BitVec 8
  deriving DecidableEq, Repr

/-- The raw fields of `FMT_DLACK` with its DownlinkData bytes (R74). -/
structure DownlinkAckFields where
  accepted : BitVec 1
  /-- byte 0 bits 7..5, which nothing reads (R81) -/
  unused : BitVec 3
  /-- byte 1, which nothing reads (R81) -/
  unusedByte : BitVec 8
  fwMajor : BitVec 8
  fwMinor : BitVec 8
  data : Vector Byte 8
  deriving DecidableEq, Repr

/-- The raw fields of `FMT_STATS`, in payload-bit order (R75). -/
structure DeviceStatsFields where
  uptime : BitVec 9
  tx : BitVec 11
  rx : BitVec 8
  trips : BitVec 13
  gpsSuccess : BitVec 10
  gpsFailure : BitVec 8
  fixTime : BitVec 9
  failTime : BitVec 9
  freshenTime : BitVec 8
  wakeups : BitVec 7
  deriving DecidableEq, Repr

/-- `FMT_POS`, bit 95 first (R73). -/
def encodePositional (f : PositionalFields) : List Byte :=
  formatBytes (f.battery ++ f.speed ++ f.heading ++ f.longitude ++ f.latitude ++ f.unused ++ f.lastFixFailed ++
    f.inTrip ++ Instr.positional.tag)

/-- `FMT_DLACK` in `PAYLOAD` mode, bit 95 first (R74). Its first four bytes are the format in `LITERAL` mode (R71). -/
def encodeDownlinkAck (f : DownlinkAckFields) : List Byte :=
  formatBytes (f.data[7] ++ f.data[6] ++ f.data[5] ++ f.data[4] ++ f.data[3] ++ f.data[2] ++ f.data[1] ++ f.data[0] ++
    f.fwMinor ++ f.fwMajor ++ f.unusedByte ++ f.unused ++ f.accepted ++ Instr.downlinkAck.tag)

/-- `FMT_STATS`, bit 95 first: the ten fields and the tag tile the 96 bits (R75, R76). -/
def encodeDeviceStats (f : DeviceStatsFields) : List Byte :=
  formatBytes (f.wakeups ++ f.freshenTime ++ f.failTime ++ f.fixTime ++ f.gpsFailure ++ f.gpsSuccess ++ f.trips ++
    f.rx ++ f.tx ++ f.uptime ++ Instr.deviceStats.tag)

end Sys2Proof
end

