-- ==== Sys2Proof/Machine/State.lean ====
section
/-! DEFINITION. The machine's state as plain data: the payload buffer and its length register, the result register
file as a sum type, the phase bit and the `DLDATA_MODE` strap (R27-R32, R36), with the host's pending interactions
and its last answer beside them (R39), and the reasons a step can stop (R180). -/

namespace Sys2Proof.Machine

/-- Why the machine stops. The first three are the spec's own model-internal faults (R180); the last guards a state no
run reaches. All are safe: the machine stops where no value exists. -/
inductive Fault where
  /-- A payload read past `PLEN` (R53, R59, R116), raised by `memRead`; unreachable in a transaction (R128). Where `PLEN`
  holds no value (R40) there is no payload and no index is valid (R50), so every read is this fault.
  DEDUCED for that case, log entry 6. Safe. -/
  | boundsFault (a n : Nat)
  /-- A host read of `RES` while it holds no value: "the model faults; it must not return zero or any other value" (R41),
  raised by `hostRes` for READ RES and for a field read. Safe. -/
  | readBeforeDecode
  /-- A read of a record field that `RES` does not hold (R31, R42, R180), raised by a field read.
  DEDUCED for a field of another record kind, log entry 10. Safe. -/
  | noRecordField
  /-- A read, below `PLEN`, of an index that `PBUF` does not store (R27: twelve bytes only), raised by `memRead`; no
  layout has one (R58). DESIGN CHOICE, log entry 7. Safe. -/
  | unstoredByte (a : Nat)
  deriving DecidableEq, Repr

/-- What the model gives no meaning to, by name. All are safe: nothing is proved of what is refused. -/
inductive Refusal where
  /-- An arm of `exec` without its meaning; no arm is one now. Safe. -/
  | notModelled (mnemonic : String)
  /-- A request to run the permissive hex policy, which "a model must refuse" (R13), raised by DECODE_HEX. Log
  entry 13. Safe. -/
  | permissiveHexPolicy
  /-- An extractor use outside 0 ≤ bo ≤ 15 and 0 ≤ bl ≤ 16 (R115), raised by `le16bits`; no layout has one. Safe. -/
  | extractorDomain (o bo bl : Nat)
  /-- A BIT use at another bit than 4 or 5 (R117), raised by `bit`; no layout has one. Safe. -/
  | flagBitIndex (i : Nat)
  deriving DecidableEq, Repr

/-- A stop met inside an operand read, before it is a step's outcome. -/
inductive Stop where
  | fault (f : Fault)
  | refused (r : Refusal)
  deriving DecidableEq, Repr

/-- `PBUF` as the cells that hold a value, addresses strictly rising (R27, R50). An unlisted index holds no value. -/
abbrev Memory := List Host.Cell

/-- The fields of `REC_POSITIONAL` at the widths of R31. `LAT_RAW` and `LON_RAW` are s32 patterns (R114). -/
structure PositionalRecord where
  inTrip : BitVec 1
  lastFixFailed : BitVec 1
  latRaw : BitVec 32
  lonRaw : BitVec 32
  headingDeg : BitVec 9
  speedKmh : BitVec 8
  battMv : BitVec 13
  deriving DecidableEq, Repr

/-- The fields of `REC_DOWNLINK_ACK` (R31). -/
structure DownlinkAckRecord where
  dlAccepted : BitVec 1
  fwMajor : BitVec 8
  fwMinor : BitVec 8
  dlData : Vector Byte 8
  deriving DecidableEq, Repr

/-- The fields of `REC_DEVICE_STATS` (R31). -/
structure DeviceStatsRecord where
  uptimeWeeks : BitVec 9
  txCount : BitVec 16
  rxCount : BitVec 13
  tripCount : BitVec 13
  gpsSuccessCount : BitVec 15
  gpsFailureCount : BitVec 13
  avgFixTimeS : BitVec 9
  avgFailTimeS : BitVec 9
  avgFreshenTimeS : BitVec 8
  wakeupsPerTrip : BitVec 7
  deriving DecidableEq, Repr

/-- A value of `RES`: one constructor per outcome a transaction writes, with fields in record kinds only (R29, R42).
Code 3 is never written into `RES` (R30) and code 7 is reserved, so neither is a value here. -/
inductive Result where
  | noneEmpty
  | noneUnrecognized
  | errTruncated
  | positional (r : PositionalRecord)
  | downlinkAck (r : DownlinkAckRecord)
  | deviceStats (r : DeviceStatsRecord)
  deriving DecidableEq, Repr

/-- The outcomes `RES.KIND` has codes for (R30); code 7 is reserved and has no name. -/
inductive Kind where
  | noneEmpty
  | noneUnrecognized
  | errTruncated
  | errMalformedHex
  | recPositional
  | recDownlinkAck
  | recDeviceStats
  deriving DecidableEq, Repr

/-- `PHASE` (R32). -/
inductive Phase where
  | idle
  | done
  deriving DecidableEq, Repr

/-- The names a host can read out of `RES`: `RES.KIND` (R30) and the record fields (R31). -/
inductive ResField where
  | kind
  | inTrip | lastFixFailed | latRaw | lonRaw | headingDeg | speedKmh | battMv
  | dlAccepted | fwMajor | fwMinor | dlData (k : Fin 8)
  | uptimeWeeks | txCount | rxCount | tripCount | gpsSuccessCount | gpsFailureCount | avgFixTimeS | avgFailTimeS
  | avgFreshenTimeS | wakeupsPerTrip
  deriving DecidableEq, Repr

/-- What the host can do to the machine between transactions (R39, R95, R195): a program is a list of these
(95_test_vectors.md, section 3). -/
inductive HostOp where
  /-- REQUEST with the payload's bytes (R39) -/
  | request (payload : List Byte)
  /-- DECODE_HEX on a character string, or on absent input, under a policy (R95, R13) -/
  | decodeHex (policy : HexPolicy) (input : Option (List Char))
  /-- READ RES (R39, R41) -/
  | readRes
  /-- a read of one field of `RES`, as step 5 of program P1 makes it (R180). DEDUCED, log entry 10. -/
  | readField (f : ResField)
  /-- reset (R195). DEDUCED, log entry 9. -/
  | reset
  deriving DecidableEq, Repr

/-- What the host got back from its last interaction (R39). -/
inductive Reply where
  /-- the response to REQUEST or READ RES: a value of `RES` -/
  | response (r : Result)
  /-- code 3 from DECODE_HEX, with the position HEX2B reports (R95, R179) -/
  | malformedHex (position : Nat)
  /-- the value of one field of `RES` -/
  | field (value : Int)
  deriving DecidableEq, Repr

/-- The whole state of one FLPP instance and of the host side that drives it. An `Option` here is the spec's own "no
value" (R40), which it gives as the reset value, not a gap in the model. -/
structure State where
  /-- `DLDATA_MODE`, a strap no transaction and no reset changes (R10, R36, R40) -/
  dlDataMode : DlDataMode
  /-- `WS_SET`, the front end's parameter (R14). DESIGN CHOICE, log entry 8. -/
  wsSet : List Char
  /-- `PHASE` (R32) -/
  phase : Phase
  /-- `PLEN`, an unbounded natural (R12, R28); no value until a request latches one (R40) -/
  plen : Option Nat
  /-- `PBUF[0..11]` (R27) -/
  pbuf : Memory
  /-- `RES` (R29-R31); no value until a transaction ends (R40) -/
  res : Option Result
  /-- the model's own: the interactions the host has still to make, oldest first (R39). DESIGN CHOICE, log entry 2. -/
  pending : List HostOp
  /-- the model's own: what the host got back last; none where an interaction gives nothing back. DESIGN
  CHOICE, log entry 4. -/
  reply : Option Reply
  deriving DecidableEq, Repr

/-- Reset, for either value of the strap and any `WS_SET` (R40): nothing holds a value, and `PHASE` is `IDLE`. -/
def State.resetWith (mode : DlDataMode) (ws : List Char) : State :=
  { dlDataMode := mode, wsSet := ws, phase := .idle, plen := none, pbuf := [], res := none, pending := [], reply := none }

/-- The machine right after reset (R40, R195), at the parameters' defaults (R10, R14), with no host interaction pending. -/
def State.reset : State := State.resetWith Config.defaultDlDataMode Config.defaultWsSet

end Sys2Proof.Machine
end

