-- ==== Sys2Proof/Machine/Ops.lean ====
section
/-! DEFINITION. The named operations over the payload buffer and the result register file: the load at REQUEST (R39),
the one read primitive MemRead (R53), the end of a transaction, which is also what every error does (R131, R184), the
length check (R128), and reset (R195). FLPP has no store (R56) and no return from an error (R185). -/

namespace Sys2Proof.Machine

/-- The byte `PBUF` stores at an index, if it stores one. -/
def Memory.read (m : Memory) (a : Nat) : Option Byte := List.lookup a m

/-- The cells of consecutive bytes from index `a` on. -/
def Memory.cellsFrom (a : Nat) : List Byte → Memory
  | [] => []
  | b :: bs => (a, b) :: Memory.cellsFrom (a + 1) bs

/-- The buffer a REQUEST leaves: the first min(length, 12) bytes in input order, and nothing else (R27, R39). -/
def Memory.load (p : List Byte) : Memory := Memory.cellsFrom 0 (p.take Config.pbufDepth)

/-- Canonical form: addresses strictly rising from at least `lo`, all below the buffer's depth. -/
def Memory.wfFrom (lo : Nat) : Memory → Bool
  | [] => true
  | (a, _) :: m => decide (lo ≤ a) && decide (a < Config.pbufDepth) && Memory.wfFrom (a + 1) m

/-- The canonical form of `PBUF`. An unlisted index holds no value, so no entry can equal what one reads as. -/
def Memory.wf (m : Memory) : Bool := Memory.wfFrom 0 m

/-- The latch of REQUEST (R39): `PLEN <- length(P)` and `PBUF[i] <- P[i]`. -/
def State.latch (s : State) (p : List Byte) : State := { s with plen := some p.length, pbuf := Memory.load p }

/-- One whole-value write of `RES` with `PHASE <- DONE` (R33, R131). An error or a no-result ends a transaction in this
same way: it saves nothing and transfers control nowhere (R184). -/
def State.endTransaction (s : State) (r : Result) : State := { s with res := some r, phase := .done }

/-- Reset (R195): the only event that sets `PHASE` to `IDLE`; the straps keep their values (R40). -/
def State.applyReset (s : State) : State :=
  { s with phase := .idle, plen := none, pbuf := [], res := none, reply := none }

/-- The access widths (R55): no other width exists. -/
inductive Width where
  | w8 | w16 | w32
  deriving DecidableEq, Repr

/-- The number of bytes an access reads. -/
def Width.bytes : Width → Nat
  | .w8 => 1
  | .w16 => 2
  | .w32 => 4

/-- The stored byte at an index below `PLEN`. -/
def State.storedByte (s : State) (a : Nat) : Except Stop Byte :=
  match s.pbuf.read a with
  | some b => .ok b
  | none => .error (.fault (.unstoredByte a))

/-- `n` bytes from index `a`, the first least significant (R52, R53). -/
def State.readLE (s : State) : Nat → Nat → Except Stop Nat
  | _, 0 => .ok 0
  | a, n + 1 => do
    let b ← s.storedByte a
    let high ← s.readLE (a + 1) n
    return b.toNat ||| (high <<< 8)

/-- Whether the payload has the `n` bytes from index `a`: an index is valid when it is below `PLEN` (R50), so none is where
`PLEN` holds no value (R40). DEDUCED for that case, log entry 6. -/
def State.inBounds (s : State) (a n : Nat) : Bool :=
  match s.plen with
  | none => false
  | some len => decide (a + n ≤ len)

/-- MemRead(a, n) (R53): the unsigned little-endian composite of n bytes, or the fault R53 states for bytes the payload does not
have (R59, R116), which is raised here alone. No alignment is needed (R54) and nothing changes (R55). -/
def State.memRead (s : State) (a : Nat) (w : Width) : Except Stop Nat :=
  if s.inBounds a w.bytes then s.readLE a w.bytes else .error (.fault (.boundsFault a w.bytes))

/-- The record a parser gives ends the transaction; a stop inside it is the step's. -/
def State.finish (s : State) : Except Stop Result → Host.Outcome State Fault Refusal
  | .ok r => .next (s.endTransaction r)
  | .error (.fault f) => .fault f
  | .error (.refused r) => .refused r

/-- The length check, before the parser reads any byte (R128, R201): a payload shorter than `need` ends the transaction
with TruncatedPayload and no field (R177). Where no payload is latched there is no length to compare, and what comes before
the check, the tag's MemRead of byte 0 (R125, R129), gives what it gives. DEDUCED, log entry 6. -/
def State.withLength (s : State) (need : Nat) (parse : State → Except Stop Result) : Host.Outcome State Fault Refusal :=
  match s.plen with
  | none => s.finish (s.memRead 0 .w8 >>= fun _ => parse s)
  | some len => if len < need then .next (s.endTransaction .errTruncated) else s.finish (parse s)

end Sys2Proof.Machine
end

