-- ==== Sys2Proof/Machine/Operands.lean ====
section
/-! DEFINITION. The bit-field extractor and the scaling multiplexer: the primitives BYTE, LE16, LE16BITS, LE32, SHR1 and BIT (R110-R117),
each reading through MemRead, and the product with a constant scale (R118). Every value is an exact
integer (R16); it is narrowed to its result field's width in one place, and R120 shows that nothing is lost there. -/

namespace Sys2Proof.Machine

/-- BYTE(o) (R110). -/
def State.byte (s : State) (o : Nat) : Except Stop Nat := s.memRead o .w8

/-- LE16(o) (R111). -/
def State.le16 (s : State) (o : Nat) : Except Stop Nat := s.memRead o .w16

/-- The shift and mask of LE16BITS on a window (R112). -/
def bitField (w bo bl : Nat) : Nat := (w >>> bo) &&& ((1 <<< bl) - 1)

/-- LE16BITS(o, bo, bl) (R112), refused outside its argument domain (R115). -/
def State.le16bits (s : State) (o bo bl : Nat) : Except Stop Nat :=
  if 15 < bo ∨ 16 < bl then .error (.refused (.extractorDomain o bo bl))
  else do
    let w ← s.le16 o
    return bitField w bo bl

/-- sext_32 (R18): the two's-complement reading of a 32-bit pattern. -/
def sext32 (u : Nat) : Int := if u.testBit 31 then (u : Int) - 2 ^ 32 else u

/-- LE32(o) (R114). -/
def State.le32 (s : State) (o : Nat) : Except Stop Int := do
  let u ← s.memRead o .w32
  return sext32 u

/-- SHR1(o) (R117). -/
def State.shr1 (s : State) (o : Nat) : Except Stop Nat := do
  let b ← s.byte o
  return b >>> 1

/-- BIT(i) = (PBUF[0] >> i) & 1, for the flag bits 4 and 5 (R117). -/
def State.bit (s : State) (i : Nat) : Except Stop Nat :=
  if i = 4 ∨ i = 5 then do
    let b ← s.byte 0
    return (b >>> i) &&& 1
  else .error (.refused (.flagBitIndex i))

/-- The value of an operand form: zero-extended, but for LE32, which is signed (R78, R121). -/
def State.extract (s : State) : Extract → Except Stop Int
  | .bit i => do
    let v ← s.bit i
    return (v : Int)
  | .byte o => do
    let v ← s.byte o
    return (v : Int)
  | .shr1 o => do
    let v ← s.shr1 o
    return (v : Int)
  | .le16bits o bo bl => do
    let v ← s.le16bits o bo bl
    return (v : Int)
  | .le32 o => s.le32 o

/-- The scaling multiplexer (R118): `k × raw`, exactly. -/
def scaleMux (k : Nat) (raw : Int) : Int := (k : Int) * raw

/-- A result field's value: its operand, scaled, written to a register of `w` bits (R31, R120). -/
def State.field (s : State) (w : Nat) (f : FieldSpec) : Except Stop (BitVec w) := do
  let raw ← s.extract f.src
  return BitVec.ofInt w (scaleMux f.scale raw)

end Sys2Proof.Machine
end

