-- ==== Sys2Proof/Machine/DeviceStats.lean ====
section
/-! DEFINITION. DEVICE_STATS, tag 2 (45_device_stats.md). -/

namespace Sys2Proof.Machine

/-- The Device Statistics parser (R160-R170): ten independent fields. -/
def parseDeviceStats (s : State) : Except Stop Result := do
  let uptimeWeeks ← s.field 9 Layout.uptimeWeeks
  let txCount ← s.field 16 Layout.txCount
  let rxCount ← s.field 13 Layout.rxCount
  let tripCount ← s.field 13 Layout.tripCount
  let gpsSuccessCount ← s.field 15 Layout.gpsSuccessCount
  let gpsFailureCount ← s.field 13 Layout.gpsFailureCount
  let avgFixTimeS ← s.field 9 Layout.avgFixTimeS
  let avgFailTimeS ← s.field 9 Layout.avgFailTimeS
  let avgFreshenTimeS ← s.field 8 Layout.avgFreshenTimeS
  let wakeupsPerTrip ← s.field 7 Layout.wakeupsPerTrip
  return .deviceStats {
      uptimeWeeks := uptimeWeeks, txCount := txCount, rxCount := rxCount, tripCount := tripCount,
      gpsSuccessCount := gpsSuccessCount, gpsFailureCount := gpsFailureCount, avgFixTimeS := avgFixTimeS,
      avgFailTimeS := avgFailTimeS, avgFreshenTimeS := avgFreshenTimeS, wakeupsPerTrip := wakeupsPerTrip }

/-- DEVICE_STATS: the length check, then the parser (R125, R160). -/
def execDeviceStats (s : State) : Host.Outcome State Fault Refusal :=
  s.withLength (minLength s.dlDataMode .deviceStats) parseDeviceStats

end Sys2Proof.Machine
end

