-- ==== Sys2Proof/Machine/DownlinkAck.lean ====
section
/-! DEFINITION. DOWNLINK_ACK, tag 1 (44_downlink_ack.md), in both values of `DLDATA_MODE`. -/

namespace Sys2Proof.Machine

/-- `DL_DATA[0..7]` (R150): payload bytes 4..11, or the constants 4..11 without reading the payload. -/
def parseDlData (s : State) : Except Stop (Vector Byte 8) :=
  match s.dlDataMode with
  | .payload => do
    let d0 ← s.field 8 (Layout.dlData 0)
    let d1 ← s.field 8 (Layout.dlData 1)
    let d2 ← s.field 8 (Layout.dlData 2)
    let d3 ← s.field 8 (Layout.dlData 3)
    let d4 ← s.field 8 (Layout.dlData 4)
    let d5 ← s.field 8 (Layout.dlData 5)
    let d6 ← s.field 8 (Layout.dlData 6)
    let d7 ← s.field 8 (Layout.dlData 7)
    return #v[d0, d1, d2, d3, d4, d5, d6, d7]
  | .literal =>
    .ok #v[BitVec.ofNat 8 (Layout.dlLiteral 0), BitVec.ofNat 8 (Layout.dlLiteral 1), BitVec.ofNat 8 (Layout.dlLiteral 2),
      BitVec.ofNat 8 (Layout.dlLiteral 3), BitVec.ofNat 8 (Layout.dlLiteral 4), BitVec.ofNat 8 (Layout.dlLiteral 5),
      BitVec.ofNat 8 (Layout.dlLiteral 6), BitVec.ofNat 8 (Layout.dlLiteral 7)]

/-- The Downlink Acknowledgement parser (R150, R151). -/
def parseDownlinkAck (s : State) : Except Stop Result := do
  let dlAccepted ← s.field 1 Layout.dlAccepted
  let fwMajor ← s.field 8 Layout.fwMajor
  let fwMinor ← s.field 8 Layout.fwMinor
  let dlData ← parseDlData s
  return .downlinkAck {
      dlAccepted := dlAccepted, fwMajor := fwMajor, fwMinor := fwMinor, dlData := dlData }

/-- DOWNLINK_ACK: the length check of the instance's mode, then the parser (R125, R128, R150). -/
def execDownlinkAck (s : State) : Host.Outcome State Fault Refusal :=
  s.withLength (minLength s.dlDataMode .downlinkAck) parseDownlinkAck

end Sys2Proof.Machine
end

