-- ==== Sys2Proof/Machine/Positional.lean ====
section
/-! DEFINITION. POSITIONAL, tag 0 (43_positional.md). -/

namespace Sys2Proof.Machine

/-- The Positional parser (R140-R143): seven independent fields, none range-checked (R144). -/
def parsePositional (s : State) : Except Stop Result := do
  let inTrip ← s.field 1 Layout.inTrip
  let lastFixFailed ← s.field 1 Layout.lastFixFailed
  let latRaw ← s.field 32 Layout.latRaw
  let lonRaw ← s.field 32 Layout.lonRaw
  let headingDeg ← s.field 9 Layout.headingDeg
  let speedKmh ← s.field 8 Layout.speedKmh
  let battMv ← s.field 13 Layout.battMv
  return .positional {
      inTrip := inTrip, lastFixFailed := lastFixFailed, latRaw := latRaw, lonRaw := lonRaw,
      headingDeg := headingDeg, speedKmh := speedKmh, battMv := battMv }

/-- POSITIONAL: the length check, then the parser (R125, R140). -/
def execPositional (s : State) : Host.Outcome State Fault Refusal :=
  s.withLength (minLength s.dlDataMode .positional) parsePositional

end Sys2Proof.Machine
end

