-- ==== Sys2Proof/Machine/Unrecognized.lean ====
section
/-! DEFINITION. UNRECOGNIZED, tags 3..15 (R127, R178): no result, whatever the length and the later bytes, and no
byte but byte 0 is read. -/

namespace Sys2Proof.Machine

/-- The outcome of a tag outside the three record types (R127, R178): `NONE_UNRECOGNIZED`, not an error (R80). -/
def State.unrecognizedTag (s : State) : Host.Outcome State Fault Refusal := .next (s.endTransaction .noneUnrecognized)

/-- UNRECOGNIZED_3 (R127). -/
def execUnrecognized3 (s : State) : Host.Outcome State Fault Refusal := s.unrecognizedTag

/-- UNRECOGNIZED_4 (R127). -/
def execUnrecognized4 (s : State) : Host.Outcome State Fault Refusal := s.unrecognizedTag

/-- UNRECOGNIZED_5 (R127). -/
def execUnrecognized5 (s : State) : Host.Outcome State Fault Refusal := s.unrecognizedTag

/-- UNRECOGNIZED_6 (R127). -/
def execUnrecognized6 (s : State) : Host.Outcome State Fault Refusal := s.unrecognizedTag

/-- UNRECOGNIZED_7 (R127). -/
def execUnrecognized7 (s : State) : Host.Outcome State Fault Refusal := s.unrecognizedTag

/-- UNRECOGNIZED_8 (R127). -/
def execUnrecognized8 (s : State) : Host.Outcome State Fault Refusal := s.unrecognizedTag

/-- UNRECOGNIZED_9 (R127). -/
def execUnrecognized9 (s : State) : Host.Outcome State Fault Refusal := s.unrecognizedTag

/-- UNRECOGNIZED_10 (R127). -/
def execUnrecognized10 (s : State) : Host.Outcome State Fault Refusal := s.unrecognizedTag

/-- UNRECOGNIZED_11 (R127). -/
def execUnrecognized11 (s : State) : Host.Outcome State Fault Refusal := s.unrecognizedTag

/-- UNRECOGNIZED_12 (R127). -/
def execUnrecognized12 (s : State) : Host.Outcome State Fault Refusal := s.unrecognizedTag

/-- UNRECOGNIZED_13 (R127). -/
def execUnrecognized13 (s : State) : Host.Outcome State Fault Refusal := s.unrecognizedTag

/-- UNRECOGNIZED_14 (R127). -/
def execUnrecognized14 (s : State) : Host.Outcome State Fault Refusal := s.unrecognizedTag

/-- UNRECOGNIZED_15 (R127). -/
def execUnrecognized15 (s : State) : Host.Outcome State Fault Refusal := s.unrecognizedTag

end Sys2Proof.Machine
end

