-- ==== Sys2Proof/Machine/Dispatch.lean ====
section
/-! DEFINITION. The meaning of each operation, one arm per constructor (R79, R125). -/

namespace Sys2Proof.Machine

def exec (i : Instr) (s : State) : Host.Outcome State Fault Refusal :=
  match i with
  | .positional => Sys2Proof.Machine.execPositional s
  | .downlinkAck => Sys2Proof.Machine.execDownlinkAck s
  | .deviceStats => Sys2Proof.Machine.execDeviceStats s
  | .unrecognized3 => Sys2Proof.Machine.execUnrecognized3 s
  | .unrecognized4 => Sys2Proof.Machine.execUnrecognized4 s
  | .unrecognized5 => Sys2Proof.Machine.execUnrecognized5 s
  | .unrecognized6 => Sys2Proof.Machine.execUnrecognized6 s
  | .unrecognized7 => Sys2Proof.Machine.execUnrecognized7 s
  | .unrecognized8 => Sys2Proof.Machine.execUnrecognized8 s
  | .unrecognized9 => Sys2Proof.Machine.execUnrecognized9 s
  | .unrecognized10 => Sys2Proof.Machine.execUnrecognized10 s
  | .unrecognized11 => Sys2Proof.Machine.execUnrecognized11 s
  | .unrecognized12 => Sys2Proof.Machine.execUnrecognized12 s
  | .unrecognized13 => Sys2Proof.Machine.execUnrecognized13 s
  | .unrecognized14 => Sys2Proof.Machine.execUnrecognized14 s
  | .unrecognized15 => Sys2Proof.Machine.execUnrecognized15 s

end Sys2Proof.Machine
end

