-- ==== Sys2Proof/Machine/Flags.lean ====
section
/-! DEFINITION. The status a host can observe: `RES.KIND` and its codes (R30, R35, R181), and the fields of `RES` by
name (R31). FLPP has no condition codes (R35): the flag bits `IN_TRIP`, `LAST_FIX_FAILED` and `DL_ACCEPTED` are record
fields, extracted by BIT in Machine/Operands.lean. -/

namespace Sys2Proof.Machine

/-- The three-bit code of an outcome (R30). -/
def Kind.code : Kind → BitVec 3
  | .noneEmpty => 0
  | .noneUnrecognized => 1
  | .errTruncated => 2
  | .errMalformedHex => 3
  | .recPositional => 4
  | .recDownlinkAck => 5
  | .recDeviceStats => 6

/-- `RES.KIND` of a value of `RES` (R30). -/
def Result.kind : Result → Kind
  | .noneEmpty => .noneEmpty
  | .noneUnrecognized => .noneUnrecognized
  | .errTruncated => .errTruncated
  | .positional _ => .recPositional
  | .downlinkAck _ => .recDownlinkAck
  | .deviceStats _ => .recDeviceStats

/-- The outcome a caller of DECODE_HEX sees in what it got back (R30, R95); a field's value is no outcome. -/
def Reply.kind : Reply → Option Kind
  | .response r => some r.kind
  | .malformedHex _ => some .errMalformedHex
  | .field _ => none

/-- A field of the Positional record by name, as an integer in its unit (R31). -/
def PositionalRecord.get (r : PositionalRecord) : ResField → Option Int
  | .inTrip => some r.inTrip.toNat
  | .lastFixFailed => some r.lastFixFailed.toNat
  | .latRaw => some r.latRaw.toInt
  | .lonRaw => some r.lonRaw.toInt
  | .headingDeg => some r.headingDeg.toNat
  | .speedKmh => some r.speedKmh.toNat
  | .battMv => some r.battMv.toNat
  | .kind | .dlAccepted | .fwMajor | .fwMinor | .dlData _ | .uptimeWeeks | .txCount | .rxCount | .tripCount
  | .gpsSuccessCount | .gpsFailureCount | .avgFixTimeS | .avgFailTimeS | .avgFreshenTimeS | .wakeupsPerTrip => none

/-- A field of the Downlink Acknowledgement record by name (R31). -/
def DownlinkAckRecord.get (r : DownlinkAckRecord) : ResField → Option Int
  | .dlAccepted => some r.dlAccepted.toNat
  | .fwMajor => some r.fwMajor.toNat
  | .fwMinor => some r.fwMinor.toNat
  | .dlData k => some r.dlData[k].toNat
  | .kind | .inTrip | .lastFixFailed | .latRaw | .lonRaw | .headingDeg | .speedKmh | .battMv | .uptimeWeeks | .txCount
  | .rxCount | .tripCount | .gpsSuccessCount | .gpsFailureCount | .avgFixTimeS | .avgFailTimeS | .avgFreshenTimeS
  | .wakeupsPerTrip => none

/-- A field of the Device Statistics record by name (R31). -/
def DeviceStatsRecord.get (r : DeviceStatsRecord) : ResField → Option Int
  | .uptimeWeeks => some r.uptimeWeeks.toNat
  | .txCount => some r.txCount.toNat
  | .rxCount => some r.rxCount.toNat
  | .tripCount => some r.tripCount.toNat
  | .gpsSuccessCount => some r.gpsSuccessCount.toNat
  | .gpsFailureCount => some r.gpsFailureCount.toNat
  | .avgFixTimeS => some r.avgFixTimeS.toNat
  | .avgFailTimeS => some r.avgFailTimeS.toNat
  | .avgFreshenTimeS => some r.avgFreshenTimeS.toNat
  | .wakeupsPerTrip => some r.wakeupsPerTrip.toNat
  | .kind | .inTrip | .lastFixFailed | .latRaw | .lonRaw | .headingDeg | .speedKmh | .battMv | .dlAccepted | .fwMajor
  | .fwMinor | .dlData _ => none

/-- What a name reads out of a value of `RES`: the code for `RES.KIND`; a record field only where the kind it belongs to
holds it (R31, R42). -/
def Result.get (r : Result) (f : ResField) : Option Int :=
  match f with
  | .kind => some r.kind.code.toNat
  | _ =>
    match r with
    | .positional p => p.get f
    | .downlinkAck d => d.get f
    | .deviceStats d => d.get f
    | .noneEmpty | .noneUnrecognized | .errTruncated => none

end Sys2Proof.Machine
end

