-- ==== Sys2Proof/Machine/HexFrontEnd.lean ====
section
/-! DEFINITION. The host-side front end, the Byte Decoder HEX2B (40_hex_front_end.md), policy STRICT. -/

namespace Sys2Proof.Machine

/-- trim (R97): the longest prefix and the longest suffix of characters of `WS_SET` go. -/
def trim (ws s : List Char) : List Char :=
  ((s.dropWhile ws.contains).reverse.dropWhile ws.contains).reverse

/-- The prefix `0x`, exact lower case, goes at most once (R98). -/
def stripPrefix : List Char → List Char
  | '0' :: 'x' :: t => t
  | t => t

/-- hexval (R102): none for a character outside `HEXDIGITS`. -/
def hexVal (c : Char) : Option Nat :=
  if '0'.toNat ≤ c.toNat ∧ c.toNat ≤ '9'.toNat then some (c.toNat - '0'.toNat)
  else if 'a'.toNat ≤ c.toNat ∧ c.toNat ≤ 'f'.toNat then some (c.toNat - 'a'.toNat + 10)
  else if 'A'.toNat ≤ c.toNat ∧ c.toNat ≤ 'F'.toNat then some (c.toNat - 'A'.toNat + 10)
  else none

/-- Validation (R100): the digits' values, or the index of the first character that is no hex digit, counted from `j`. -/
def hexDigits (j : Nat) : List Char → Except Nat (List Nat)
  | [] => .ok []
  | c :: t =>
    match hexVal c with
    | none => .error j
    | some d =>
      match hexDigits (j + 1) t with
      | .error e => .error e
      | .ok ds => .ok (d :: ds)

/-- Pairing (R101): high nibble first; an odd last digit is dropped (R99). -/
def pairDigits : List Nat → List Byte
  | h :: l :: t => BitVec.ofNat 8 (h * 16 + l) :: pairDigits t
  | [_] => []
  | [] => []

/-- HEX2B (R95): the byte sequence, or the position of MalformedHex. Absent input gives no byte (R96). -/
def hex2b (ws : List Char) : Option (List Char) → Except Nat (List Byte)
  | none => .ok []
  | some s =>
    match hexDigits 0 (stripPrefix (trim ws s)) with
    | .error j => .error j
    | .ok ds => .ok (pairDigits ds)

end Sys2Proof.Machine
end

