-- ==== Sys2Proof/Machine/Transaction.lean ====
section
/-! DEFINITION. The DECODE transaction (R33, R125) and the host's interactions that start it or read its result (R39,
R41, R95, R195). A step of the machine is one interaction. -/

namespace Sys2Proof.Machine

/-- The bytes the dispatcher looks at: none where `PLEN = 0`, else byte 0, read once (R126). -/
def State.tagBytes (s : State) : Except Stop (List Byte) :=
  if s.plen = some 0 then .ok []
  else do
    let b ← s.byte 0
    return [BitVec.ofNat 8 b]

/-- DISPATCH on the latched payload (R125): empty, then the tag, then the operation, whose first act is the length check
(R129). -/
def transaction (s : State) : Host.Outcome State Fault Refusal :=
  match s.tagBytes with
  | .error (.fault f) => .fault f
  | .error (.refused r) => .refused r
  | .ok bytes =>
    match Sys2Proof.decode bytes with
    | .error .emptyInput => .next (s.endTransaction .noneEmpty)
    | .ok i => exec i s

/-- The response to a request: the host gets `RES` (R39). -/
def State.respond (s : State) : State := { s with reply := s.res.map .response }

/-- A step's outcome with the response given back, where there is a next state. -/
def respondAfter : Host.Outcome State Fault Refusal → Host.Outcome State Fault Refusal
  | .next t => .next t.respond
  | .fault f => .fault f
  | .refused r => .refused r

/-- REQUEST(P) (R39): latch, one atomic transaction, response. -/
def request (s : State) (p : List Byte) : Host.Outcome State Fault Refusal :=
  respondAfter (transaction (s.latch p))

/-- DECODE_HEX (R95): on MalformedHex the caller gets code 3 and neither `RES` nor `PHASE` changes (R179). The permissive
policy is refused (R13). -/
def decodeHex (s : State) (policy : HexPolicy) (input : Option (List Char)) : Host.Outcome State Fault Refusal :=
  match policy with
  | .permissive => .refused .permissiveHexPolicy
  | .strict =>
    match hex2b s.wsSet input with
    | .error j => .next { s with reply := some (.malformedHex j) }
    | .ok p => request s p

/-- `RES` as the host reads it (R41): while `PHASE = IDLE` nothing has written it, and the read faults. The same holds in a
state, which no run reaches, whose `PHASE` is `DONE` and whose `RES` has no value. DEDUCED, log entry 19. -/
def State.hostRes (s : State) : Except Fault Result :=
  match s.phase, s.res with
  | .done, some r => .ok r
  | .done, none | .idle, _ => .error .readBeforeDecode

/-- READ RES (R41): the current `RES`, with no side effect. -/
def readRes (s : State) : Host.Outcome State Fault Refusal :=
  match s.hostRes with
  | .error f => .fault f
  | .ok r => .next { s with reply := some (.response r) }

/-- A read of one field of `RES`: as READ RES, and a fault where `RES` does not hold the field (R180). -/
def readField (s : State) (f : ResField) : Host.Outcome State Fault Refusal :=
  match s.hostRes with
  | .error e => .fault e
  | .ok r =>
    match r.get f with
    | some v => .next { s with reply := some (.field v) }
    | none => .fault .noRecordField

/-- One interaction (R39). -/
def interact (s : State) : HostOp → Host.Outcome State Fault Refusal
  | .request p => request s p
  | .decodeHex policy input => decodeHex s policy input
  | .readRes => readRes s
  | .readField f => readField s f
  | .reset => .next s.applyReset

/-- The host's next pending interaction; with none, FLPP does nothing, since only the host starts a transaction (R25,
R39). DESIGN CHOICE, log entry 3. -/
def interactNext (s : State) : Host.Outcome State Fault Refusal :=
  match s.pending with
  | [] => .next s
  | op :: rest => interact { s with pending := rest } op

/-- The state whose next interaction is REQUEST(P). -/
def State.withRequest (s : State) (p : List Byte) : State := { s with pending := .request p :: s.pending }

end Sys2Proof.Machine
end

