-- ==== Sys2Proof/Machine/Step.lean ====
section
/-! DEFINITION. One step of the machine: one interaction of the host, with the transaction it starts (R25, R33). -/

namespace Sys2Proof.Machine

/-- One step. -/
def step (s : State) : Host.Outcome State Fault Refusal := Sys2Proof.Machine.interactNext s

/-- The state whose next step runs the operation of a payload whose bits are `w` (numbered as R17 numbers them, 0 from
`nbits` on): the host's next interaction is a REQUEST with that payload. -/
def State.withFetchWord (s : State) (nbits w : Nat) : State := s.withRequest (Sys2Proof.tableWordBytes nbits w)

end Sys2Proof.Machine
end

