-- ==== Sys2Proof/Machine/HostView.lean ====
section
/-! DEFINITION. What a consumer computes from the result fields, outside FLPP: the physical values as exact rationals
(R119) and the firmware version's text (R152). No step uses these (log entry 16). -/

namespace Sys2Proof.Machine

/-- Latitude in degrees: `LAT_RAW / 10^7` (R119, R142). -/
def PositionalRecord.latitude (r : PositionalRecord) : Rat := mkRat r.latRaw.toInt (10 ^ 7)

/-- Longitude in degrees: `LON_RAW / 10^7` (R119, R142). -/
def PositionalRecord.longitude (r : PositionalRecord) : Rat := mkRat r.lonRaw.toInt (10 ^ 7)

/-- BatteryVoltage in volts: `BATT_MV / 1000` (R119, R143). -/
def PositionalRecord.batteryVoltage (r : PositionalRecord) : Rat := mkRat r.battMv.toNat 1000

/-- `dec(v)` (R152): the decimal digits of a byte, with no leading zeros; `dec(0)` is one 0. -/
def dec (v : Byte) : List Char := Nat.toDigits 10 v.toNat

/-- The firmware version's text (R152): major, a full stop, minor. -/
def DownlinkAckRecord.firmwareVersion (r : DownlinkAckRecord) : List Char := dec r.fwMajor ++ '.' :: dec r.fwMinor

end Sys2Proof.Machine
end

