-- ==== Sys2Proof/Machine/Instances.lean ====
section
/-! DEFINITION. Several FLPP instances (R191): independent copies of the state, with no shared field, no identifier and
no message. DESIGN CHOICE, log entry 15: one of them takes a step; which one is the caller's choice. -/

namespace Sys2Proof.Machine

/-- A step of the instance in place `k`; where there is no such instance, nothing steps. -/
def stepInstance (all : List State) (k : Nat) : Host.Outcome (List State) Fault Refusal :=
  match all[k]? with
  | none => .next all
  | some s =>
    match step s with
    | .next t => .next (all.set k t)
    | .fault f => .fault f
    | .refused r => .refused r

end Sys2Proof.Machine
end

