-- ==== Sys2Proof/Safety.lean ====
section
/-! DEFINITION. What counts as a sound state and a safe stop, in the terms the statements use. -/

namespace Sys2Proof.Machine

/-- The payload latched in the state is `p` (R27, R28). -/
abbrev State.Latched (s : State) (p : List Byte) : Prop := s.plen = some p.length ∧ s.pbuf = Memory.load p

/-- The buffer stores exactly the first min(`PLEN`, 12) bytes (R27). -/
abbrev State.BufferCovers (s : State) (len : Nat) : Prop := s.pbuf.map Prod.fst = List.range (min len Config.pbufDepth)

/-- Before the first transaction since reset, nothing holds a value (R32, R40). -/
abbrev State.Fresh (s : State) : Prop := s.plen = none ∧ s.pbuf = [] ∧ s.res = none

/-- After a transaction, the latched payload is whole, and `RES` is the outcome of that payload: running the transaction
again would change nothing (R32, R33). -/
abbrev State.Settled (s : State) : Prop :=
  (∃ len, s.plen = some len ∧ s.BufferCovers len) ∧ (∃ r, s.res = some r) ∧ transaction s = .next s

/-- The invariant every step keeps: `PBUF` is in canonical form, and the state is fresh or settled as `PHASE` says. -/
def State.Inv (s : State) : Prop :=
  s.pbuf.wf = true ∧
    match s.phase with
    | .idle => s.Fresh
    | .done => s.Settled

/-- The faults a host can cause, by reading what holds no value (R41, R180); no step meets any other. -/
def Fault.isHostRead : Fault → Bool
  | .readBeforeDecode => true
  | .noRecordField => true
  | .boundsFault _ _ => false
  | .unstoredByte _ => false

end Sys2Proof.Machine
end

