-- ==== Sys2Proof/Certificates/Slice0/Obligations.lean ====
section
/-! DEFINITION. The statements for the provers, after the few reference notions of the spec they are written in: a payload's bits by number
(R17), its windows (R52, R111, R114), hex digits (R102). These are written apart from the machine's own extractor. -/

namespace Sys2Proof.Reference

/-- Byte `o` of a payload, as a number. -/
def byteAt (p : List Byte) (o : Nat) : Nat := (p.getD o 0).toNat

/-- `(PBUF[o+1] << 8) | PBUF[o]` (R52, R111). -/
def window16 (p : List Byte) (o : Nat) : Nat := (byteAt p (o + 1) <<< 8) ||| byteAt p o

/-- `PBUF[o+3]<<24 | PBUF[o+2]<<16 | PBUF[o+1]<<8 | PBUF[o]` (R114). -/
def window32 (p : List Byte) (o : Nat) : Nat :=
  (byteAt p (o + 3) <<< 24) ||| (byteAt p (o + 2) <<< 16) ||| (byteAt p (o + 1) <<< 8) ||| byteAt p o

/-- `u - 2^32 if u[31] = 1, else u` (R18, R114). -/
def signed32 (u : Nat) : Int := if u / 2 ^ 31 % 2 = 1 then (u : Int) - 2 ^ 32 else u

/-- The number whose bit p is payload bit p (R17). -/
def payloadNumber (p : List Byte) : Nat := p.foldr (fun b n => b.toNat + 256 * n) 0

/-- The `w` payload bits from number `lo` up, as a number (R17). -/
def payloadBits (p : List Byte) (lo w : Nat) : Nat := payloadNumber p / 2 ^ lo % 2 ^ w

/-- The minimum length a record type requires, by tag (R82, R128). -/
def minimumFor (mode : DlDataMode) (tag : Nat) : Nat :=
  if tag = 0 then 12 else if tag = 1 then (if mode = .payload then 12 else 4) else if tag = 2 then 12 else 1

/-- The payload indices a record type reads, by tag (R58). -/
def indicesRead (mode : DlDataMode) (tag : Nat) : List Nat :=
  if tag = 0 then List.range 12
  else if tag = 1 then (if mode = .payload then 0 :: (List.range 10).map (· + 2) else [0, 2, 3])
  else if tag = 2 then List.range 12
  else [0]

/-- The Positional record of a payload, by the payload bits of R73 and its scales. -/
def PositionalOf (p : List Byte) (r : Machine.PositionalRecord) : Prop :=
  r.inTrip.toNat = payloadBits p 4 1 ∧ r.lastFixFailed.toNat = payloadBits p 5 1 ∧
  r.latRaw.toInt = signed32 (payloadBits p 8 32) ∧ r.lonRaw.toInt = signed32 (payloadBits p 40 32) ∧
  r.headingDeg.toNat = 2 * payloadBits p 72 8 ∧ r.speedKmh.toNat = payloadBits p 80 8 ∧
  r.battMv.toNat = 25 * payloadBits p 88 8

/-- The Downlink Acknowledgement record of a payload, by the payload bits of R74 and the mode. -/
def DownlinkAckOf (mode : DlDataMode) (p : List Byte) (r : Machine.DownlinkAckRecord) : Prop :=
  r.dlAccepted.toNat = payloadBits p 4 1 ∧ r.fwMajor.toNat = payloadBits p 16 8 ∧ r.fwMinor.toNat = payloadBits p 24 8 ∧
  ∀ k : Fin 8, r.dlData[k].toNat = if mode = .payload then payloadBits p (32 + 8 * k) 8 else 4 + k

/-- The Device Statistics record of a payload, by the payload bits of R75 and its scales. -/
def DeviceStatsOf (p : List Byte) (r : Machine.DeviceStatsRecord) : Prop :=
  r.uptimeWeeks.toNat = payloadBits p 4 9 ∧ r.txCount.toNat = 32 * payloadBits p 13 11 ∧
  r.rxCount.toNat = 32 * payloadBits p 24 8 ∧ r.tripCount.toNat = payloadBits p 32 13 ∧
  r.gpsSuccessCount.toNat = 32 * payloadBits p 45 10 ∧ r.gpsFailureCount.toNat = 32 * payloadBits p 55 8 ∧
  r.avgFixTimeS.toNat = payloadBits p 63 9 ∧ r.avgFailTimeS.toNat = payloadBits p 72 9 ∧
  r.avgFreshenTimeS.toNat = payloadBits p 81 8 ∧ r.wakeupsPerTrip.toNat = payloadBits p 89 7

/-- The one outcome of a payload: empty, then the tag, then the length, then the record (R125, R129). -/
def OutcomeOf (mode : DlDataMode) (p : List Byte) (r : Machine.Result) : Prop :=
  let tag := payloadBits p 0 4
  if p.length = 0 then r = .noneEmpty
  else if 3 ≤ tag then r = .noneUnrecognized
  else if p.length < minimumFor mode tag then r = .errTruncated
  else if tag = 0 then ∃ f, r = .positional f ∧ PositionalOf p f
  else if tag = 1 then ∃ f, r = .downlinkAck f ∧ DownlinkAckOf mode p f
  else ∃ f, r = .deviceStats f ∧ DeviceStatsOf p f

/-- The thirteen operations of tags 3..15. -/
def unrecognizedOps : List Instr :=
  [.unrecognized3, .unrecognized4, .unrecognized5, .unrecognized6, .unrecognized7, .unrecognized8, .unrecognized9,
    .unrecognized10, .unrecognized11, .unrecognized12, .unrecognized13, .unrecognized14, .unrecognized15]

/-- The operation of each tag (R79). -/
def opcodeRows : List (Nat × Instr) :=
  [(0, .positional), (1, .downlinkAck), (2, .deviceStats), (3, .unrecognized3), (4, .unrecognized4),
    (5, .unrecognized5), (6, .unrecognized6), (7, .unrecognized7), (8, .unrecognized8), (9, .unrecognized9),
    (10, .unrecognized10), (11, .unrecognized11), (12, .unrecognized12), (13, .unrecognized13), (14, .unrecognized14),
    (15, .unrecognized15)]

/-- The digits of `HEXDIGITS` with their values (R100, R102). -/
def hexTable : List (Char × Nat) :=
  [('0', 0), ('1', 1), ('2', 2), ('3', 3), ('4', 4), ('5', 5), ('6', 6), ('7', 7), ('8', 8), ('9', 9), ('a', 10),
    ('b', 11), ('c', 12), ('d', 13), ('e', 14), ('f', 15), ('A', 10), ('B', 11), ('C', 12), ('D', 13), ('E', 14),
    ('F', 15)]

/-- The value of a hex digit, if it is one (R102). -/
def digit (c : Char) : Option Nat := hexTable.lookup c

/-- The trimmed, prefix-stripped string (R97, R98): `s` is white space, then the body, then white space, the body
neither begins nor ends with white space, and a leading `0x` of the body is left out once. -/
def BodyOf (ws s t : List Char) : Prop :=
  ∃ pre body post, s = pre ++ body ++ post ∧ (∀ c ∈ pre, c ∈ ws) ∧ (∀ c ∈ post, c ∈ ws) ∧
    (∀ c, body.head? = some c → c ∉ ws) ∧ (∀ c, body.getLast? = some c → c ∉ ws) ∧
    (body = '0' :: 'x' :: t ∨ (body = t ∧ ∀ u, body ≠ '0' :: 'x' :: u))

/-- The kind a record field belongs to (R31); `RES.KIND` belongs to none. -/
def fieldKind : Machine.ResField → Option Machine.Kind
  | .kind => none
  | .inTrip | .lastFixFailed | .latRaw | .lonRaw | .headingDeg | .speedKmh | .battMv => some .recPositional
  | .dlAccepted | .fwMajor | .fwMinor | .dlData _ => some .recDownlinkAck
  | .uptimeWeeks | .txCount | .rxCount | .tripCount | .gpsSuccessCount | .gpsFailureCount | .avgFixTimeS
  | .avgFailTimeS | .avgFreshenTimeS | .wakeupsPerTrip => some .recDeviceStats

/-- The record fields a value of `RES` holds, with their numbers: the rows of R31's table under its kind. -/
def recordFields : Machine.Result → List (Machine.ResField × Int)
  | .noneEmpty | .noneUnrecognized | .errTruncated => []
  | .positional r =>
    [(.inTrip, r.inTrip.toNat), (.lastFixFailed, r.lastFixFailed.toNat), (.latRaw, r.latRaw.toInt),
      (.lonRaw, r.lonRaw.toInt), (.headingDeg, r.headingDeg.toNat), (.speedKmh, r.speedKmh.toNat),
      (.battMv, r.battMv.toNat)]
  | .downlinkAck r =>
    (.dlAccepted, r.dlAccepted.toNat) :: (.fwMajor, r.fwMajor.toNat) :: (.fwMinor, r.fwMinor.toNat) ::
      (List.finRange 8).map fun k => (.dlData k, r.dlData[k].toNat)
  | .deviceStats r =>
    [(.uptimeWeeks, r.uptimeWeeks.toNat), (.txCount, r.txCount.toNat), (.rxCount, r.rxCount.toNat),
      (.tripCount, r.tripCount.toNat), (.gpsSuccessCount, r.gpsSuccessCount.toNat),
      (.gpsFailureCount, r.gpsFailureCount.toNat), (.avgFixTimeS, r.avgFixTimeS.toNat),
      (.avgFailTimeS, r.avgFailTimeS.toNat), (.avgFreshenTimeS, r.avgFreshenTimeS.toNat),
      (.wakeupsPerTrip, r.wakeupsPerTrip.toNat)]

/-- What two outcomes of a step have in common when only `PLEN`'s representation differs: the same stop, or next states
with the same `RES` and `PHASE`. -/
def SameOutcome : Host.Outcome Machine.State Machine.Fault Machine.Refusal →
    Host.Outcome Machine.State Machine.Fault Machine.Refusal → Prop
  | .next t, .next u => t.res = u.res ∧ t.phase = u.phase
  | .fault f, .fault g => f = g
  | .refused a, .refused b => a = b
  | _, _ => False

end Sys2Proof.Reference

open Sys2Proof Sys2Proof.Machine Sys2Proof.Reference

/-! ### The step and the decoder -/

/-- When the payload of the pending REQUEST decodes to a well-formed operation, a step latches the payload, runs exactly
that operation, and gives the response back (R33, R39, R125). -/
def Obligations.StepRunsDecodedOperation : Prop :=
  ∀ (s : State) (rest : List HostOp) (p : List Byte) (i : Instr),
    s.pending = .request p :: rest → decode p = .ok i → i.wellFormed = true →
      step s = respondAfter (exec i (({ s with pending := rest } : State).latch p))

/-- An empty payload ends its transaction with EmptyInput, code 0, and nothing but the code (R176). -/
def Obligations.EmptyPayloadGivesNoneEmpty : Prop :=
  ∀ (s : State) (rest : List HostOp), s.pending = .request [] :: rest →
    step s = .next ({ s with
      pending := rest, plen := some 0, pbuf := [], res := some .noneEmpty, phase := .done,
      reply := some (.response .noneEmpty) } : State) ∧
    Result.noneEmpty.kind.code = 0#3

/-- Words of the spec, written out bit by bit, decode to the operations they stand for: W1, V-DL-1, S1 and V-DSP-8. -/
def Obligations.SpecWordsDecode : Prop :=
  decodeTableWord 8 0b00110000 = some .positional ∧ decodeTableWord 8 0b00010001 = some .downlinkAck ∧
  decodeTableWord 8 0b11000010 = some .deviceStats ∧ decodeTableWord 8 0b11110011 = some .unrecognized3 ∧
  decodeTableWord 8 0b00001111 = some .unrecognized15 ∧
  decode [0b11110010#8, 0xFF#8] = .ok .deviceStats ∧ decode [] = .error .emptyInput

/-- "The opcode is selected by byte 0 with mask 0x0F alone; bits 7..4 of byte 0 never take part in selection" (R79). -/
def Obligations.LowNibbleAloneSelects : Prop :=
  ∀ (b : Byte) (rest : List Byte) (n : Nat) (i : Instr), (n, i) ∈ opcodeRows →
    (decode (b :: rest) = .ok i ↔ (b &&& 0x0F#8).toNat = n)

/-! ### The meanings of the operations -/

/-- POSITIONAL, selected by tag 0: on any latched payload of 12 bytes or more it ends with code 4 and the record of
R141-R143, every field exact and none range-checked (R140-R144), and its latitude, longitude and battery voltage are the
exact rationals those rules name. -/
def Obligations.PositionalGivesRecord : Prop :=
  ∀ (s : State) (p : List Byte), s.Latched p → 12 ≤ p.length →
    ∃ r : PositionalRecord, exec .positional s = .next (s.endTransaction (.positional r)) ∧
      r.inTrip.toNat = byteAt p 0 / 16 % 2 ∧ r.lastFixFailed.toNat = byteAt p 0 / 32 % 2 ∧
      r.latRaw.toInt = signed32 (window32 p 1) ∧ r.lonRaw.toInt = signed32 (window32 p 5) ∧
      r.headingDeg.toNat = 2 * byteAt p 9 ∧ r.speedKmh.toNat = byteAt p 10 ∧ r.battMv.toNat = 25 * byteAt p 11 ∧
      r.latitude = (signed32 (window32 p 1) : Rat) / 10 ^ 7 ∧ r.longitude = (signed32 (window32 p 5) : Rat) / 10 ^ 7 ∧
      r.batteryVoltage = ((25 * byteAt p 11 : Nat) : Rat) / 1000 ∧
      (Result.positional r).kind.code = 4#3 ∧ (byteAt p 0 % 16 = 0 → decode p = .ok .positional)

/-- DOWNLINK_ACK, selected by tag 1, in both modes: on a latched payload of at least the mode's minimum length it ends with code
5 and the record whose DownlinkData is payload bytes 4..11 in `PAYLOAD` mode and the constants 4..11 in `LITERAL` mode; in
`PAYLOAD` mode a shorter payload than 12 bytes is TruncatedPayload (R150, R151). -/
def Obligations.DownlinkAckGivesRecord : Prop :=
  (∀ (s : State) (p : List Byte), s.Latched p → s.dlDataMode = .payload → p.length < 12 →
    exec .downlinkAck s = .next (s.endTransaction .errTruncated)) ∧
  ∀ (s : State) (p : List Byte), s.Latched p → (if s.dlDataMode = .payload then 12 else 4) ≤ p.length →
    ∃ r : DownlinkAckRecord, exec .downlinkAck s = .next (s.endTransaction (.downlinkAck r)) ∧
      r.dlAccepted.toNat = byteAt p 0 / 16 % 2 ∧ r.fwMajor.toNat = byteAt p 2 ∧ r.fwMinor.toNat = byteAt p 3 ∧
      (s.dlDataMode = .payload → ∀ k : Fin 8, r.dlData[k].toNat = byteAt p (4 + k)) ∧
      (s.dlDataMode = .literal → ∀ k : Fin 8, r.dlData[k].toNat = 4 + k) ∧
      (Result.downlinkAck r).kind.code = 5#3 ∧ (byteAt p 0 % 16 = 1 → decode p = .ok .downlinkAck)

/-- DEVICE_STATS, selected by tag 2: on any latched payload of 12 bytes or more it ends with code 6 and the ten fields of
R161-R170, each by its own window, shift, mask and scale, and equally by the payload bits its rule names. -/
def Obligations.DeviceStatsGivesRecord : Prop :=
  ∀ (s : State) (p : List Byte), s.Latched p → 12 ≤ p.length →
    ∃ r : DeviceStatsRecord, exec .deviceStats s = .next (s.endTransaction (.deviceStats r)) ∧
      r.uptimeWeeks.toNat = (window16 p 0 >>> 4) &&& 0x1FF ∧
      r.txCount.toNat = 32 * ((window16 p 1 >>> 5) &&& 0x7FF) ∧
      r.rxCount.toNat = 32 * byteAt p 3 ∧
      r.tripCount.toNat = window16 p 4 &&& 0x1FFF ∧
      r.gpsSuccessCount.toNat = 32 * ((window16 p 5 >>> 5) &&& 0x3FF) ∧
      r.gpsFailureCount.toNat = 32 * ((window16 p 6 >>> 7) &&& 0xFF) ∧
      r.avgFixTimeS.toNat = (window16 p 7 >>> 7) &&& 0x1FF ∧
      r.avgFailTimeS.toNat = window16 p 9 &&& 0x1FF ∧
      r.avgFreshenTimeS.toNat = (window16 p 10 >>> 1) &&& 0xFF ∧
      r.wakeupsPerTrip.toNat = byteAt p 11 >>> 1 ∧ DeviceStatsOf p r ∧
      (Result.deviceStats r).kind.code = 6#3 ∧ (byteAt p 0 % 16 = 2 → decode p = .ok .deviceStats)

/-- UnrecognizedTag (R178): in every state and at every length each of the thirteen operations ends its transaction with
code 1 and nothing but the code; and a request of at least one byte whose low nibble is 3..15 ends so. -/
def Obligations.UnrecognizedTagsGiveNoResult : Prop :=
  Result.noneUnrecognized.kind.code = 1#3 ∧
  (∀ i ∈ unrecognizedOps, ∀ s : State,
    exec i s = .next ({ s with res := some .noneUnrecognized, phase := .done } : State)) ∧
  ∀ (s : State) (rest : List HostOp) (b : Byte) (p : List Byte),
    s.pending = .request (b :: p) :: rest → 3 ≤ (b &&& 0x0F#8).toNat →
      ∃ t : State, step s = .next t ∧ t.res = some .noneUnrecognized ∧ t.reply = some (.response .noneUnrecognized) ∧
        t.phase = .done

/-- TruncatedPayload (R177): a latched length below the record type's minimum ends the transaction with code 2 and no
field, whatever the buffer holds, so before the parser reads any byte; and a request of tag 0, 1 or 2 shorter than its
minimum ends so. -/
def Obligations.ShortPayloadGivesTruncated : Prop :=
  Result.errTruncated.kind.code = 2#3 ∧
  (∀ (s : State) (len : Nat), s.plen = some len →
    (len < 12 → exec .positional s = .next ({ s with res := some .errTruncated, phase := .done } : State)) ∧
    (len < (if s.dlDataMode = .payload then 12 else 4) →
      exec .downlinkAck s = .next ({ s with res := some .errTruncated, phase := .done } : State)) ∧
    (len < 12 → exec .deviceStats s = .next ({ s with res := some .errTruncated, phase := .done } : State))) ∧
  ∀ (s : State) (rest : List HostOp) (b : Byte) (p : List Byte),
    s.pending = .request (b :: p) :: rest → (b &&& 0x0F#8).toNat < 3 →
    (b :: p).length < minimumFor s.dlDataMode (b &&& 0x0F#8).toNat →
      ∃ t : State, step s = .next t ∧ t.res = some .errTruncated ∧ t.reply = some (.response .errTruncated) ∧
        t.phase = .done

/-- Every operation completes wherever the latched buffer covers its length; no operand value stops it. -/
def Obligations.EveryOperationCompletes : Prop :=
  ∀ (i : Instr) (s : State) (len : Nat), s.plen = some len → s.BufferCovers len →
    ∃ r : Result, exec i s = .next (s.endTransaction r)

/-- The model's inference (DEDUCED, log entry 6), for states no step runs an operation in: where `PLEN` holds no value (R40) no
index is valid (R50), so each record operation stops at the tag's byte with the fault R53 and R116 give such a read. -/
def Obligations.NoLatchedPayloadStops : Prop :=
  ∀ i ∈ [Instr.positional, .downlinkAck, .deviceStats], ∀ s : State, s.plen = none →
    exec i s = .fault (.boundsFault 0 1)

/-- The frame of every operation: it writes `RES` as one whole value and sets `PHASE` to `DONE`; the buffer's every byte,
its length, the straps and the host's side are as before. -/
def Obligations.OperationFrame : Prop :=
  ∀ (i : Instr) (s t : State), exec i s = .next t →
    (∃ r, t.res = some r) ∧ t.phase = .done ∧ t.plen = s.plen ∧ (∀ a, t.pbuf.read a = s.pbuf.read a) ∧
    t.pbuf = s.pbuf ∧ t.dlDataMode = s.dlDataMode ∧ t.wsSet = s.wsSet ∧ t.pending = s.pending ∧ t.reply = s.reply

/-- Which outcomes each operation can end with: its own record or TruncatedPayload, or for tags 3..15 no result. -/
def Obligations.OperationWritesItsOwnKind : Prop :=
  ∀ (i : Instr) (s t : State), exec i s = .next t →
    ∃ r, t.res = some r ∧
      ((i = .positional ∧ (r.kind = .recPositional ∨ r.kind = .errTruncated)) ∨
       (i = .downlinkAck ∧ (r.kind = .recDownlinkAck ∨ r.kind = .errTruncated)) ∨
       (i = .deviceStats ∧ (r.kind = .recDeviceStats ∨ r.kind = .errTruncated)) ∨
       (i ∈ unrecognizedOps ∧ r.kind = .noneUnrecognized))

/-- The ranges of R31's table, in every state an operation runs in: no product is cut (R120), and the ×32, ×25 and ×2
fields are multiples of their scale (R171). -/
def Obligations.ResultFieldsInRange : Prop :=
  ∀ (s t : State),
    (∀ r, exec .positional s = .next t → t.res = some (.positional r) →
      r.headingDeg.toNat ≤ 510 ∧ 2 ∣ r.headingDeg.toNat ∧ r.battMv.toNat ≤ 6375 ∧ 25 ∣ r.battMv.toNat) ∧
    (∀ r, exec .deviceStats s = .next t → t.res = some (.deviceStats r) →
      r.txCount.toNat ≤ 65504 ∧ 32 ∣ r.txCount.toNat ∧ r.rxCount.toNat ≤ 8160 ∧ 32 ∣ r.rxCount.toNat ∧
      r.gpsSuccessCount.toNat ≤ 32736 ∧ 32 ∣ r.gpsSuccessCount.toNat ∧
      r.gpsFailureCount.toNat ≤ 8160 ∧ 32 ∣ r.gpsFailureCount.toNat)

/-- A length register that saturates at 2^w - 1 for some w of 4 or more changes no operation's outcome (R12). -/
def Obligations.SaturatingLengthIsExact : Prop :=
  ∀ (i : Instr) (s : State) (len w : Nat), s.plen = some len → 4 ≤ w →
    SameOutcome (exec i s) (exec i ({ s with plen := some (min len (2 ^ w - 1)) } : State))

/-! ### The extractor -/

/-- BYTE, LE16, LE16BITS, LE32, SHR1 and BIT (R110, R111, R112, R114, R117). On a latched payload, at every index inside
payload and buffer, odd or even, each gives the value of its rule; in every state, a read past `PLEN` is a BoundsFault
(R116), whatever the buffer holds; and no transaction on a latched payload meets such a fault, or any other stop. -/
def Obligations.ExtractorPrimitives : Prop :=
  (∀ (s : State) (p : List Byte) (o : Nat), s.Latched p →
    (o + 1 ≤ p.length → o + 1 ≤ 12 → s.byte o = .ok (byteAt p o) ∧ s.shr1 o = .ok (byteAt p o / 2)) ∧
    (o + 2 ≤ p.length → o + 2 ≤ 12 → s.le16 o = .ok (window16 p o) ∧
      ∀ bo bl, bo ≤ 15 → bl ≤ 16 → s.le16bits o bo bl = .ok ((window16 p o >>> bo) &&& ((1 <<< bl) - 1))) ∧
    (o + 4 ≤ p.length → o + 4 ≤ 12 → s.le32 o = .ok (signed32 (window32 p o))) ∧
    (1 ≤ p.length → s.bit 4 = .ok (byteAt p 0 / 16 % 2) ∧ s.bit 5 = .ok (byteAt p 0 / 32 % 2))) ∧
  (∀ (s : State) (len o : Nat), s.plen = some len →
    (len < o + 1 → s.byte o = .error (.fault (.boundsFault o 1)) ∧ s.shr1 o = .error (.fault (.boundsFault o 1))) ∧
    (len < o + 2 → s.le16 o = .error (.fault (.boundsFault o 2)) ∧
      ∀ bo bl, bo ≤ 15 → bl ≤ 16 → s.le16bits o bo bl = .error (.fault (.boundsFault o 2))) ∧
    (len < o + 4 → s.le32 o = .error (.fault (.boundsFault o 4))) ∧
    (len = 0 → s.bit 4 = .error (.fault (.boundsFault 0 1)) ∧ s.bit 5 = .error (.fault (.boundsFault 0 1)))) ∧
  ∀ (s : State) (p : List Byte), ∃ t : State, transaction (s.latch p) = .next t

/-- Outside 0 ≤ bo ≤ 15 and 0 ≤ bl ≤ 16 LE16BITS is refused by name, and every constant use of the three formats lies inside
(R115). -/
def Obligations.ExtractorDomainRefused : Prop :=
  (∀ (s : State) (o bo bl : Nat), 15 < bo ∨ 16 < bl →
    s.le16bits o bo bl = .error (.refused (.extractorDomain o bo bl))) ∧
  ∀ (mode : DlDataMode) (i : Instr), ∀ f ∈ operands mode i, ∀ o bo bl, f.src = .le16bits o bo bl → bo ≤ 15 ∧ bl ≤ 16

/-- The two mask forms agree for every bl from 0 to 16, and a longer bl is refused (R113). -/
def Obligations.MaskFormsAgree : Prop :=
  (∀ bl : Nat, bl ≤ 16 → (1 <<< bl) - 1 = 0xFFFF >>> (16 - bl)) ∧
  ∀ (s : State) (o bo bl : Nat), 16 < bl → s.le16bits o bo bl = .error (.refused (.extractorDomain o bo bl))

/-- The extraction is the bits bo .. bo+bl-1 of the window: every bit of the result is one window bit, and bits past
window bit 15 read as 0 (R112). -/
def Obligations.BitFieldIsWindowBits : Prop :=
  ∀ (w bo bl k : Nat), w < 2 ^ 16 →
    (bitField w bo bl).testBit k = (decide (k < bl) && decide (bo + k < 16) && w.testBit (bo + k))

/-! ### The encodings of the record formats -/

/-- Every field of a `FMT_POS` payload, at every value, is read back where it was laid (R73): no bit is dropped. -/
def Obligations.PositionalEncodingReadsBack : Prop :=
  ∀ (f : PositionalFields) (s : State), s.Latched (encodePositional f) →
    decode (encodePositional f) = .ok .positional ∧
    exec .positional s = .next (s.endTransaction (.positional ⟨f.inTrip, f.lastFixFailed, f.latitude, f.longitude,
      BitVec.ofNat 9 (2 * f.heading.toNat), f.speed, BitVec.ofNat 13 (25 * f.battery.toNat)⟩))

/-- Every field of a `FMT_DLACK` payload, at every value, is read back where it was laid (R74): the twelve bytes in
`PAYLOAD` mode, the first four in `LITERAL` mode. -/
def Obligations.DownlinkAckEncodingReadsBack : Prop :=
  ∀ (f : DownlinkAckFields) (s : State),
    decode (encodeDownlinkAck f) = .ok .downlinkAck ∧
    (s.dlDataMode = .payload → s.Latched (encodeDownlinkAck f) →
      exec .downlinkAck s = .next (s.endTransaction (.downlinkAck ⟨f.accepted, f.fwMajor, f.fwMinor, f.data⟩))) ∧
    (s.dlDataMode = .literal → s.Latched ((encodeDownlinkAck f).take 4) →
      exec .downlinkAck s =
        .next (s.endTransaction (.downlinkAck ⟨f.accepted, f.fwMajor, f.fwMinor, #v[4, 5, 6, 7, 8, 9, 10, 11]⟩)))

/-- Every field of a `FMT_STATS` payload, at every value, is read back where it was laid (R75), through overlapping
windows. -/
def Obligations.DeviceStatsEncodingReadsBack : Prop :=
  ∀ (f : DeviceStatsFields) (s : State), s.Latched (encodeDeviceStats f) →
    decode (encodeDeviceStats f) = .ok .deviceStats ∧
    exec .deviceStats s = .next (s.endTransaction (.deviceStats ⟨f.uptime, BitVec.ofNat 16 (32 * f.tx.toNat),
      BitVec.ofNat 13 (32 * f.rx.toNat), f.trips, BitVec.ofNat 15 (32 * f.gpsSuccess.toNat),
      BitVec.ofNat 13 (32 * f.gpsFailure.toNat), f.fixTime, f.failTime, f.freshenTime, f.wakeups⟩))

/-- The ten stats fields and the tag tile the 96 bits (R76): every 12-byte payload of tag 2 is the encoding of exactly
one choice of the ten fields. -/
def Obligations.StatsFieldsTilePayload : Prop :=
  ∀ p : List Byte, p.length = 12 → decode p = .ok .deviceStats → ∃! f : DeviceStatsFields, encodeDeviceStats f = p

/-! ### The transaction -/

/-- The whole of a REQUEST, in every state: the step completes, `RES` and the response are the one outcome the payload's
bits and `DLDATA_MODE` give (R125, R129), the payload is latched (R39) and nothing else changes. -/
def Obligations.RequestGivesSpecifiedOutcome : Prop :=
  ∀ (s : State) (rest : List HostOp) (p : List Byte), s.pending = .request p :: rest →
    ∃ r : Result, OutcomeOf s.dlDataMode p r ∧
      step s = .next ({ s with
        pending := rest, plen := some p.length, pbuf := Memory.load p, res := some r, phase := .done,
        reply := some (.response r) } : State)

/-- The outcome depends on the payload and `DLDATA_MODE` alone: two machines that differ in everything else, an earlier
outcome or a fresh reset among it, answer a request alike (R33). -/
def Obligations.RequestIgnoresHistory : Prop :=
  ∀ (s u : State) (rest more : List HostOp) (p : List Byte),
    s.pending = .request p :: rest → u.pending = .request p :: more → s.dlDataMode = u.dlDataMode →
      ∃ t v : State, step s = .next t ∧ step u = .next v ∧ t.res = v.res ∧ t.reply = v.reply ∧ t.phase = v.phase

/-- Trailing bytes, and all others the record type does not read, change no outcome, and there is no "too long" error: two payloads
of one tag, each at least the minimum long and alike at the indices R58 lists, have the same outcome, which is not
TruncatedPayload (R58, R130). -/
def Obligations.UnreadBytesIgnored : Prop :=
  ∀ (s u : State) (rest more : List HostOp) (p q : List Byte),
    s.pending = .request p :: rest → u.pending = .request q :: more → s.dlDataMode = u.dlDataMode →
    minimumFor s.dlDataMode (byteAt p 0 % 16) ≤ p.length → minimumFor s.dlDataMode (byteAt p 0 % 16) ≤ q.length →
    (∀ i ∈ indicesRead s.dlDataMode (byteAt p 0 % 16), byteAt p i = byteAt q i) →
      ∃ t v : State, step s = .next t ∧ step u = .next v ∧ t.res = v.res ∧ t.res ≠ some .errTruncated

/-- Unused bits change no outcome (R81): byte 0 bits 7..6 of tag 0; byte 0 bits 7..5 and byte 1 of tag 1, and in `LITERAL` mode
all bytes from 4 on. -/
def Obligations.UnusedBitsIgnored : Prop :=
  ∀ (s u : State) (rest more : List HostOp) (p q : List Byte),
    s.pending = .request p :: rest → u.pending = .request q :: more → s.dlDataMode = u.dlDataMode → p.length = q.length →
    ((payloadBits p 0 4 = 0 ∧ payloadBits q 0 6 = payloadBits p 0 6 ∧ ∀ i, 1 ≤ i → byteAt p i = byteAt q i) ∨
     (payloadBits p 0 4 = 1 ∧ payloadBits q 0 5 = payloadBits p 0 5 ∧
        ∀ i, 2 ≤ i → (i < 4 ∨ s.dlDataMode = .payload) → byteAt p i = byteAt q i)) →
      ∃ t v : State, step s = .next t ∧ step u = .next v ∧ t.res = v.res

/-! ### The host's interactions -/

/-- READ RES (R41): a fault while `PHASE` is `IDLE`; while it is `DONE`, the outcome of the last transaction, and no side
effect. -/
def Obligations.ReadResRule : Prop :=
  ∀ (s : State) (rest : List HostOp), s.pending = .readRes :: rest →
    (s.phase = .idle → step s = .fault .readBeforeDecode) ∧
    (∀ r, s.phase = .done → s.res = some r →
      step s = .next ({ s with pending := rest, reply := some (.response r) } : State))

/-- A field read gives a value exactly where `RES.KIND` is the kind the field belongs to (R31), and then the number the record
holds under that name; `RES.KIND` itself reads as its code (R30); before any transaction the read is ReadBeforeDecode
(R41, R180). The model's inference (DEDUCED, log entry 10): a field read is an interaction of its own, and a field of another
record's kind is NoRecordField like a field where `RES` holds no record, which alone R180 names. -/
def Obligations.FieldReadRule : Prop :=
  ∀ (s : State) (rest : List HostOp) (f : ResField), s.pending = .readField f :: rest →
    (s.phase = .idle → step s = .fault .readBeforeDecode) ∧
    (∀ r, s.phase = .done → s.res = some r →
      (f = .kind → step s = .next ({ s with pending := rest, reply := some (.field r.kind.code.toNat) } : State)) ∧
      (f ≠ .kind → fieldKind f = some r.kind →
        ∃ v, (f, v) ∈ recordFields r ∧ step s = .next ({ s with pending := rest, reply := some (.field v) } : State)) ∧
      (f ≠ .kind → fieldKind f ≠ some r.kind → step s = .fault .noRecordField))

/-- The codes of R30's table, no outcome with code 7, and no value of `RES` with code 3: where the front end fails, the caller
gets code 3, and `RES` and `PHASE` keep their values. -/
def Obligations.KindCodes : Prop :=
  Kind.noneEmpty.code = 0#3 ∧ Kind.noneUnrecognized.code = 1#3 ∧ Kind.errTruncated.code = 2#3 ∧
  Kind.errMalformedHex.code = 3#3 ∧ Kind.recPositional.code = 4#3 ∧ Kind.recDownlinkAck.code = 5#3 ∧
  Kind.recDeviceStats.code = 6#3 ∧ (∀ k : Kind, k.code ≠ 7#3) ∧ (∀ r : Result, r.kind.code ≠ 3#3) ∧
  ∀ (s : State) (rest : List HostOp) (input : Option (List Char)) (j : Nat),
    s.pending = .decodeHex .strict input :: rest → hex2b s.wsSet input = .error j →
      ∃ t : State, step s = .next t ∧ t.res = s.res ∧ t.phase = s.phase ∧
        t.reply.bind Reply.kind = some .errMalformedHex

/-- Reset leaves the values of R40: `PHASE` is `IDLE`, `RES`, `PBUF` and `PLEN` hold no value, and the strap keeps its
value; the machine's state after reset is such a state, with the default strap. The model's inference (DEDUCED, log entry 9):
a reset keeps `WS_SET` and the interactions still pending, of which R40 says nothing. -/
def Obligations.ResetLeavesNoValues : Prop :=
  (State.reset.phase = .idle ∧ State.reset.res = none ∧ State.reset.plen = none ∧
    (∀ a, State.reset.pbuf.read a = none) ∧ State.reset.dlDataMode = .payload) ∧
  ∀ (s : State) (rest : List HostOp), s.pending = .reset :: rest →
    ∃ t : State, step s = .next t ∧ t.phase = .idle ∧ t.res = none ∧ t.plen = none ∧ (∀ a, t.pbuf.read a = none) ∧
      t.dlDataMode = s.dlDataMode ∧ t.wsSet = s.wsSet ∧ t.pending = rest

/-- Reset is the only event that sets `PHASE` to `IDLE` (R195). -/
def Obligations.OnlyResetSetsIdle : Prop :=
  ∀ s t : State, step s = .next t → s.phase = .done → t.phase = .idle → ∃ rest, s.pending = .reset :: rest

/-- Only the host writes the payload buffer and its length, and only with a request (or a reset): READ RES, a field read
and an idle step leave every byte (R27, R28, R56). -/
def Obligations.OnlyRequestsWritePayload : Prop :=
  ∀ s t : State, step s = .next t → (t.plen ≠ s.plen ∨ ∃ a, t.pbuf.read a ≠ s.pbuf.read a) →
    ∃ op rest, s.pending = op :: rest ∧ (op = .reset ∨ (∃ p, op = .request p) ∨ ∃ input, op = .decodeHex .strict input)

/-- No step changes the `DLDATA_MODE` strap (R36). That none changes the front end's `WS_SET`, which R14 only names as a parameter,
is the model's choice (DESIGN CHOICE, log entry 8), and for a reset its inference (DEDUCED, log entry 9). -/
def Obligations.StrapsNeverChange : Prop :=
  ∀ s t : State, step s = .next t → t.dlDataMode = s.dlDataMode ∧ t.wsSet = s.wsSet

/-- The model's choice (log entry 3): with no interaction pending, a step changes nothing. -/
def Obligations.NoInteractionNoChange : Prop :=
  ∀ s : State, s.pending = [] → step s = .next s

/-! ### The front end -/

/-- Absent input, and a string that is empty once trimmed, give the empty byte sequence and no failure; DECODE_HEX then
ends with `NONE_EMPTY` (R96). -/
def Obligations.EmptyInputGivesNoBytes : Prop :=
  (∀ ws, hex2b ws none = .ok []) ∧ (∀ (ws s : List Char), (∀ c ∈ s, c ∈ ws) → hex2b ws (some s) = .ok []) ∧
  ∀ (s : State) (rest : List HostOp) (input : Option (List Char)), s.pending = .decodeHex .strict input :: rest →
    (∀ t, input = some t → ∀ c ∈ t, c ∈ s.wsSet) →
      ∃ t : State, step s = .next t ∧ t.plen = some 0 ∧ t.res = some .noneEmpty ∧
        t.reply = some (.response .noneEmpty)

/-- MalformedHex reports the first character of the trimmed, prefix-stripped string that is no hex digit, and only that
(R100). -/
def Obligations.MalformedHexReportsFirstBadCharacter : Prop :=
  ∀ (ws s t : List Char) (j : Nat), BodyOf ws s t →
    (hex2b ws (some s) = .error j ↔
      (∃ c, t[j]? = some c ∧ digit c = none) ∧ ∀ (k : Nat) (c : Char), k < j → t[k]? = some c → (digit c).isSome = true)

/-- A string of hex digits gives floor(length / 2) bytes, byte i from characters 2i (the high nibble) and 2i+1 of the
trimmed, prefix-stripped string, an odd last digit dropped (R101, R102, R104). -/
def Obligations.HexDigitsPairIntoBytes : Prop :=
  ∀ (ws s t : List Char), BodyOf ws s t → (∀ c ∈ t, (digit c).isSome = true) →
    ∃ bytes : List Byte, hex2b ws (some s) = .ok bytes ∧ bytes.length = t.length / 2 ∧
      ∀ (i : Nat) (b : Byte), bytes[i]? = some b →
        ∃ c d h l, t[2 * i]? = some c ∧ t[2 * i + 1]? = some d ∧ digit c = some h ∧ digit d = some l ∧
          b.toNat = h * 16 + l

/-- A prefixed string and its unprefixed twin have the same outcome, in every state whose `WS_SET` holds neither
character of the prefix (R103). -/
def Obligations.PrefixedAndPlainAgree : Prop :=
  ∀ (s : State) (rest : List HostOp) (t : List Char), '0' ∉ s.wsSet → 'x' ∉ s.wsSet →
    (∀ c, t.head? = some c → c ∉ s.wsSet) → (∀ c, t.getLast? = some c → c ∉ s.wsSet) → (∀ u, t ≠ '0' :: 'x' :: u) →
      step ({ s with pending := .decodeHex .strict (some ('0' :: 'x' :: t)) :: rest } : State) =
      step ({ s with pending := .decodeHex .strict (some t) :: rest } : State)

/-- DECODE_HEX (R95): malformed input gives code 3 with its position back to the caller and leaves every part of the
machine's state, `RES` and `PHASE` included (R179); any other input is the REQUEST of its bytes. -/
def Obligations.DecodeHexRule : Prop :=
  Kind.errMalformedHex.code = 3#3 ∧
  ∀ (s : State) (rest : List HostOp) (input : Option (List Char)), s.pending = .decodeHex .strict input :: rest →
    (∀ j, hex2b s.wsSet input = .error j →
      step s = .next ({ s with pending := rest, reply := some (.malformedHex j) } : State) ∧
      (Reply.malformedHex j).kind = some .errMalformedHex) ∧
    (∀ p, hex2b s.wsSet input = .ok p → step s = step ({ s with pending := .request p :: rest } : State))

/-- A request for the permissive hex policy is refused by name (R13). -/
def Obligations.PermissivePolicyRefused : Prop :=
  ∀ (s : State) (rest : List HostOp) (input : Option (List Char)), s.pending = .decodeHex .permissive input :: rest →
    step s = .refused .permissiveHexPolicy

/-! ### What a consumer computes -/

/-- The firmware version's text (R152): for each part, decimal digits that spell the byte, no leading zero but in 0
itself, and a full stop between the two. -/
def Obligations.FirmwareVersionText : Prop :=
  (∀ v : Byte, (dec v).foldl (fun n c => 10 * n + (c.toNat - 48)) 0 = v.toNat ∧
    (∀ c ∈ dec v, 48 ≤ c.toNat ∧ c.toNat ≤ 57) ∧ (dec v).head? ≠ none ∧ ((dec v).head? = some '0' → v = 0#8 ∧ dec v = ['0'])) ∧
  ∀ r : DownlinkAckRecord, r.firmwareVersion = dec r.fwMajor ++ ['.'] ++ dec r.fwMinor

/-! ### Invariants and safety -/

/-- The invariant holds at reset, for either strap. -/
def Obligations.InvariantAtReset : Prop :=
  State.reset.Inv ∧ ∀ (mode : DlDataMode) (ws : List Char), (State.resetWith mode ws).Inv

/-- Every step keeps the invariant: `PBUF` in canonical form; before the first transaction nothing holds a value; after
one, `PBUF` covers `PLEN` and `RES` is the outcome of the payload latched (R32, R33). -/
def Obligations.StepKeepsInvariant : Prop :=
  ∀ s t : State, s.Inv → step s = .next t → t.Inv

/-- From every state, whether a run reaches it or not, the only faults are the host's own reads of what holds no value, and the
only refusal is the permissive policy's: no step meets a BoundsFault or the guard unstoredByte (R59, R116, R180). -/
def Obligations.OnlyHostReadsFault : Prop :=
  ∀ s : State,
    (∀ f, step s = .fault f → f.isHostRead = true) ∧ (∀ r, step s = .refused r → r = .permissiveHexPolicy)

/-- While `PHASE` is `DONE`, `RES` is the outcome of the payload latched (R32): reading it gives what requesting that
payload again would give. -/
def Obligations.DoneMeansLatestOutcome : Prop :=
  ∀ (s : State) (p : List Byte), s.Inv → s.phase = .done → s.Latched p →
    ∃ r, s.res = some r ∧ OutcomeOf s.dlDataMode p r

/-- Instances share nothing (R191): a step of one leaves every other as it was, and depends on its own state alone. -/
def Obligations.InstancesAreIndependent : Prop :=
  ∀ (all others : List State) (k : Nat) (s : State), all[k]? = some s → others[k]? = some s →
    ∀ after : List State, stepInstance all k = .next after →
      (∀ j, j ≠ k → after[j]? = all[j]?) ∧ after.length = all.length ∧
      ∃ t after', step s = .next t ∧ after[k]? = some t ∧ stepInstance others k = .next after' ∧ after'[k]? = some t
end

