-- ==== Sys2Proof/Laws/Memory.lean ====
section
/-! SUPPORT. The payload buffer: what a load leaves at each index, and that every operation keeps the canonical form. -/

namespace Sys2Proof.Machine

/-- An index below the first cell holds no value. -/
theorem Memory.read_cellsFrom_lt (p : List Byte) :
    ∀ {a i : Nat}, i < a → Memory.read (Memory.cellsFrom a p) i = none := by
  induction p with
  | nil => intros; rfl
  | cons b bs ih =>
    intro a i h
    have hne : (i == a) = false := by simp; omega
    simpa [Memory.cellsFrom, Memory.read, List.lookup, hne] using ih (by omega : i < a + 1)

/-- Consecutive cells hold their bytes in order. -/
theorem Memory.read_cellsFrom (p : List Byte) :
    ∀ a i : Nat, Memory.read (Memory.cellsFrom a p) (a + i) = p[i]? := by
  induction p with
  | nil => intros; rfl
  | cons b bs ih =>
    intro a i
    cases i with
    | zero => simp [Memory.cellsFrom, Memory.read]
    | succ i =>
      have hne : (a + (i + 1) == a) = false := by simp
      have := ih (a + 1) i
      rw [show a + 1 + i = a + (i + 1) by omega] at this
      simpa [Memory.cellsFrom, Memory.read, List.lookup, hne] using this

/-- A load leaves byte i of the payload at index i below the depth, and no value elsewhere (R27). -/
theorem Memory.read_load (p : List Byte) (i : Nat) :
    Memory.read (Memory.load p) i = if i < Config.pbufDepth then p[i]? else none := by
  have h := Memory.read_cellsFrom (p.take Config.pbufDepth) 0 i
  rw [Nat.zero_add] at h
  rw [Memory.load, h, List.getElem?_take]

/-- Bytes past the depth are not stored (R11). -/
theorem Memory.load_take (p : List Byte) : Memory.load (p.take Config.pbufDepth) = Memory.load p := by
  simp [Memory.load, List.take_take]

/-- The cells of consecutive bytes are in canonical form. -/
theorem Memory.wfFrom_cellsFrom (p : List Byte) :
    ∀ {lo a : Nat}, lo ≤ a → a + p.length ≤ Config.pbufDepth → Memory.wfFrom lo (Memory.cellsFrom a p) = true := by
  induction p with
  | nil => intros; rfl
  | cons b bs ih =>
    intro lo a h1 h2
    simp only [List.length_cons] at h2
    simp [Memory.cellsFrom, Memory.wfFrom, h1, ih (Nat.le_refl (a + 1)) (by omega)]
    omega

/-- A load leaves the canonical form. -/
theorem Memory.load_wf (p : List Byte) : (Memory.load p).wf = true :=
  Memory.wfFrom_cellsFrom _ (Nat.le_refl 0) (by simp [List.length_take])

theorem Memory.nil_wf : Memory.wf [] = true := rfl

/-- The addresses of consecutive cells. -/
theorem Memory.addresses_cellsFrom (p : List Byte) :
    ∀ a : Nat, (Memory.cellsFrom a p).map Prod.fst = List.range' a p.length := by
  induction p with
  | nil => intros; rfl
  | cons b bs ih => intro a; simp [Memory.cellsFrom, ih, List.range'_succ]

/-- A load stores exactly the indices below min(length, 12). -/
theorem Memory.addresses_load (p : List Byte) :
    (Memory.load p).map Prod.fst = List.range (min p.length Config.pbufDepth) := by
  rw [Memory.load, Memory.addresses_cellsFrom, List.range_eq_range', List.length_take, Nat.min_comm]

/-- A latched payload covers the buffer. -/
theorem State.Latched.covers {s : State} {p : List Byte} (h : s.Latched p) : s.BufferCovers p.length := by
  rw [State.BufferCovers, h.2, Memory.addresses_load]

/-- The latch latches (R39). -/
theorem State.latched_latch (s : State) (p : List Byte) : (s.latch p).Latched p := ⟨rfl, rfl⟩

/-- A listed address reads as a value. -/
theorem Memory.read_isSome_of_mem (m : Memory) (a : Nat) (h : a ∈ m.map Prod.fst) :
    ∃ b, Memory.read m a = some b := by
  induction m with
  | nil => simp at h
  | cons c m ih =>
    obtain ⟨k, b⟩ := c
    by_cases hk : a = k
    · exact ⟨b, by simp [Memory.read, List.lookup, hk]⟩
    · have hne : (a == k) = false := by simpa using hk
      obtain ⟨b', hb'⟩ := ih (by simpa [hk] using h)
      exact ⟨b', by simpa [Memory.read, List.lookup, hne] using hb'⟩

/-- Where the buffer covers `len` bytes, every index below `len` and the depth holds a value. -/
theorem State.BufferCovers.storedByte {s : State} {len a : Nat} (h : s.BufferCovers len) (ha : a < len)
    (hd : a < Config.pbufDepth) : ∃ b, s.storedByte a = .ok b := by
  obtain ⟨b, hb⟩ := Memory.read_isSome_of_mem s.pbuf a (by rw [h]; simp; omega)
  exact ⟨b, by simp [State.storedByte, hb]⟩

/-- In a latched state the stored byte is the payload's. -/
theorem State.Latched.storedByte {s : State} {p : List Byte} (h : s.Latched p) {a : Nat} (ha : a < p.length)
    (hd : a < Config.pbufDepth) : s.storedByte a = .ok (p[a]) := by
  simp [State.storedByte, h.2, Memory.read_load, hd, ha]

end Sys2Proof.Machine
end

