-- ==== Sys2Proof/Laws/Operands.lean ====
section
/-! SUPPORT. The read primitive and the extractor: one lemma per operation saying what it answers. -/

namespace Sys2Proof.Machine

/-- Or-ing a byte below a shifted number is adding (R52, R53). -/
theorem byte_or_shift (b : Byte) (h : Nat) : b.toNat ||| (h <<< 8) = b.toNat + 256 * h := by
  have hb : b.toNat < 2 ^ 8 := b.isLt
  rw [Nat.lor_comm, ← Nat.shiftLeft_add_eq_or_of_lt hb, Nat.shiftLeft_eq]
  omega

/-- The number a list of bytes spells, the first least significant. -/
def leNumber : List Byte → Nat
  | [] => 0
  | b :: bs => b.toNat + 256 * leNumber bs

/-- `readLE` where every byte is stored. -/
theorem State.readLE_ok (s : State) (bs : List Byte) :
    ∀ a : Nat, (∀ k (h : k < bs.length), s.storedByte (a + k) = .ok bs[k]) → s.readLE a bs.length = .ok (leNumber bs) := by
  induction bs with
  | nil => intros; rfl
  | cons b bs ih =>
    intro a h
    have h0 : s.storedByte a = .ok b := h 0 (by simp)
    have ht := ih (a + 1) fun k hk => by
      have := h (k + 1) (by simpa using hk)
      simpa [Nat.add_assoc, Nat.add_comm 1 k] using this
    simp only [List.length_cons, State.readLE, h0, ht, bind, Except.bind, pure, Except.pure, leNumber, byte_or_shift]

/-- Everything MemRead can be where the payload lacks a byte (R53, R59). -/
theorem State.memRead_outside {s : State} {a : Nat} {w : Width} (h : s.inBounds a w.bytes = false) :
    s.memRead a w = .error (.fault (.boundsFault a w.bytes)) := by
  simp [State.memRead, h]

/-- Everything MemRead can be where the payload has its bytes (R53). -/
theorem State.memRead_inside {s : State} {len a : Nat} {w : Width} (hl : s.plen = some len) (h : a + w.bytes ≤ len) :
    s.memRead a w = s.readLE a w.bytes := by
  simp [State.memRead, State.inBounds, hl, h]

/-- Past `PLEN`, MemRead faults (R53, R59). -/
theorem State.memRead_bounds {s : State} {len a : Nat} {w : Width} (hl : s.plen = some len) (h : len < a + w.bytes) :
    s.memRead a w = .error (.fault (.boundsFault a w.bytes)) :=
  State.memRead_outside (by simp [State.inBounds, hl, h])

/-- Where no payload is latched, MemRead faults at every index (R50). -/
theorem State.memRead_unlatched {s : State} (hl : s.plen = none) (a : Nat) (w : Width) :
    s.memRead a w = .error (.fault (.boundsFault a w.bytes)) :=
  State.memRead_outside (by simp [State.inBounds, hl])

/-- MemRead in a latched state, within the payload and the buffer (R53). -/
theorem State.Latched.memRead {s : State} {p : List Byte} (h : s.Latched p) {a : Nat} {w : Width}
    (ha : a + w.bytes ≤ p.length) (hd : a + w.bytes ≤ Config.pbufDepth) :
    s.memRead a w = .ok (leNumber ((p.drop a).take w.bytes)) := by
  have hlen : ((p.drop a).take w.bytes).length = w.bytes := by simp; omega
  have := s.readLE_ok ((p.drop a).take w.bytes) a fun k hk => by
    rw [hlen] at hk
    rw [h.storedByte (by omega) (by omega)]
    simp
  rw [hlen] at this
  rw [State.memRead_inside h.1 ha, this]

/-- BYTE in a latched state (R110). -/
theorem State.Latched.byte {s : State} {p : List Byte} (h : s.Latched p) {o : Nat} (ho : o < p.length)
    (hd : o < Config.pbufDepth) : s.byte o = .ok (p[o]).toNat := by
  rw [State.byte, h.memRead (by simpa [Width.bytes]) (by simpa [Width.bytes])]
  rw [List.drop_eq_getElem_cons ho]
  rfl

/-- LE16 in a latched state (R111). -/
theorem State.Latched.le16 {s : State} {p : List Byte} (h : s.Latched p) {o : Nat} (ho : o + 1 < p.length)
    (hd : o + 1 < Config.pbufDepth) : s.le16 o = .ok ((p[o]).toNat + 256 * (p[o + 1]).toNat) := by
  rw [State.le16, h.memRead (by simp [Width.bytes]; omega) (by simp [Width.bytes]; omega)]
  rw [List.drop_eq_getElem_cons (show o < p.length by omega), List.drop_eq_getElem_cons ho]
  rfl

/-- The shift and mask as division and remainder (R112). -/
theorem bitField_eq (w bo bl : Nat) : bitField w bo bl = w / 2 ^ bo % 2 ^ bl := by
  rw [bitField, Nat.one_shiftLeft, Nat.and_two_pow_sub_one_eq_mod, Nat.shiftRight_eq_div_pow]

/-- LE16BITS within its domain reads its window (R112, R115). -/
theorem State.le16bits_ok {s : State} {o bo bl w : Nat} (h : s.le16 o = .ok w) (h1 : bo ≤ 15) (h2 : bl ≤ 16) :
    s.le16bits o bo bl = .ok (w / 2 ^ bo % 2 ^ bl) := by
  have : ¬(15 < bo ∨ 16 < bl) := by omega
  simp only [State.le16bits, this, if_false, h, bind, Except.bind, pure, Except.pure, bitField_eq]

/-- sext_32 by comparison (R18). -/
theorem sext32_eq {u : Nat} (h : u < 2 ^ 32) : sext32 u = if u < 2 ^ 31 then (u : Int) else (u : Int) - 2 ^ 32 := by
  have ht : u.testBit 31 = decide (2 ^ 31 ≤ u) := by
    rw [Nat.testBit_eq_decide_div_mod_eq]
    congr 1
    apply propext
    omega
  rw [sext32, ht]
  by_cases hu : u < 2 ^ 31
  · simp only [hu, if_true, show decide (2 ^ 31 ≤ u) = false by simpa using hu, Bool.false_eq_true, if_false]
  · simp only [hu, if_false, show decide (2 ^ 31 ≤ u) = true by simpa using hu, if_true]

/-- A result field is its operand, scaled and narrowed. -/
theorem State.field_ok {s : State} {f : FieldSpec} {v : Int} (w : Nat) (h : s.extract f.src = .ok v) :
    s.field w f = .ok (BitVec.ofInt w (scaleMux f.scale v)) := by
  simp [State.field, h, bind, Except.bind, pure, Except.pure]

/-- Everything the end of a parse can be. -/
theorem State.finish_next {s t : State} {x : Except Stop Result} (h : s.finish x = .next t) :
    ∃ r, x = .ok r ∧ t = s.endTransaction r := by
  cases x with
  | ok r => exact ⟨r, rfl, by simpa [State.finish] using h.symm⟩
  | error e => cases e <;> simp [State.finish] at h

/-- Where no payload is latched, the tag's read faults and no length is compared. -/
theorem State.withLength_unlatched {s : State} (need : Nat) (parse : State → Except Stop Result) (hl : s.plen = none) :
    s.withLength need parse = .fault (.boundsFault 0 1) := by
  simp only [State.withLength, hl, State.memRead_unlatched hl, bind, Except.bind, State.finish, Width.bytes]

/-- Everything the length check can answer as a next state (R128): TruncatedPayload, or the parser's result. -/
theorem State.withLength_next {s t : State} {need : Nat} {parse : State → Except Stop Result}
    (h : s.withLength need parse = .next t) :
    ∃ len, s.plen = some len ∧
      ((len < need ∧ t = s.endTransaction .errTruncated) ∨
        (need ≤ len ∧ ∃ r, parse s = .ok r ∧ t = s.endTransaction r)) := by
  cases hl : s.plen with
  | none => simp [State.withLength_unlatched need parse hl] at h
  | some len =>
    simp only [State.withLength, hl] at h
    refine ⟨len, rfl, ?_⟩
    split at h
    · rename_i hlt
      exact .inl ⟨hlt, by simpa using h.symm⟩
    · rename_i hge
      exact .inr ⟨by omega, State.finish_next h⟩

/-- A payload of at least `need` bytes reaches the parser. -/
theorem State.withLength_enough {s : State} {len need : Nat} (parse : State → Except Stop Result)
    (hl : s.plen = some len) (h : need ≤ len) : s.withLength need parse = s.finish (parse s) := by
  simp [State.withLength, hl, show ¬len < need by omega]

/-- A shorter payload ends in TruncatedPayload (R177). -/
theorem State.withLength_short {s : State} {len need : Nat} (parse : State → Except Stop Result)
    (hl : s.plen = some len) (h : len < need) : s.withLength need parse = .next (s.endTransaction .errTruncated) := by
  simp [State.withLength, hl, h]

end Sys2Proof.Machine
end

