-- ==== Sys2Proof/Laws/PerInstr.lean ====
section
/-! SUPPORT. Statements about every operation as syntax, one lemma per constructor: its bytes decode to it whatever
its operand fields hold (R79, R72), and its operands are well formed (R115, R117, R118) below its minimum length (R58). -/

namespace Sys2Proof.Laws

/-- The bytes of an operation decode to it, whatever the high nibble and the later bytes hold. -/
def RoundTrip.Statement (i : Instr) : Prop := ∀ high rest, decode (encode i high rest) = .ok i

/-- An operation's byte 0 with any high nibble selects it, if it does so for the sixteen nibbles. -/
theorem RoundTrip.of_nibbles {i : Instr} (h : ∀ n : Fin 16, decodeByte0 (BitVec.ofFin n ++ i.tag) = i) :
    RoundTrip.Statement i := fun high _ => congrArg Except.ok (h high.toFin)

/-- Every operand lies in the extractor's domain and below the minimum length. -/
def LayoutFits.Statement (i : Instr) : Prop := i.wellFormed = true

theorem RoundTrip.positional : RoundTrip.Statement .positional := RoundTrip.of_nibbles (by decide)
theorem RoundTrip.downlinkAck : RoundTrip.Statement .downlinkAck := RoundTrip.of_nibbles (by decide)
theorem RoundTrip.deviceStats : RoundTrip.Statement .deviceStats := RoundTrip.of_nibbles (by decide)
theorem RoundTrip.unrecognized3 : RoundTrip.Statement .unrecognized3 := RoundTrip.of_nibbles (by decide)
theorem RoundTrip.unrecognized4 : RoundTrip.Statement .unrecognized4 := RoundTrip.of_nibbles (by decide)
theorem RoundTrip.unrecognized5 : RoundTrip.Statement .unrecognized5 := RoundTrip.of_nibbles (by decide)
theorem RoundTrip.unrecognized6 : RoundTrip.Statement .unrecognized6 := RoundTrip.of_nibbles (by decide)
theorem RoundTrip.unrecognized7 : RoundTrip.Statement .unrecognized7 := RoundTrip.of_nibbles (by decide)
theorem RoundTrip.unrecognized8 : RoundTrip.Statement .unrecognized8 := RoundTrip.of_nibbles (by decide)
theorem RoundTrip.unrecognized9 : RoundTrip.Statement .unrecognized9 := RoundTrip.of_nibbles (by decide)
theorem RoundTrip.unrecognized10 : RoundTrip.Statement .unrecognized10 := RoundTrip.of_nibbles (by decide)
theorem RoundTrip.unrecognized11 : RoundTrip.Statement .unrecognized11 := RoundTrip.of_nibbles (by decide)
theorem RoundTrip.unrecognized12 : RoundTrip.Statement .unrecognized12 := RoundTrip.of_nibbles (by decide)
theorem RoundTrip.unrecognized13 : RoundTrip.Statement .unrecognized13 := RoundTrip.of_nibbles (by decide)
theorem RoundTrip.unrecognized14 : RoundTrip.Statement .unrecognized14 := RoundTrip.of_nibbles (by decide)
theorem RoundTrip.unrecognized15 : RoundTrip.Statement .unrecognized15 := RoundTrip.of_nibbles (by decide)

theorem LayoutFits.positional : LayoutFits.Statement .positional := by unfold LayoutFits.Statement; decide
theorem LayoutFits.downlinkAck : LayoutFits.Statement .downlinkAck := by unfold LayoutFits.Statement; decide
theorem LayoutFits.deviceStats : LayoutFits.Statement .deviceStats := by unfold LayoutFits.Statement; decide
theorem LayoutFits.unrecognized3 : LayoutFits.Statement .unrecognized3 := by unfold LayoutFits.Statement; decide
theorem LayoutFits.unrecognized4 : LayoutFits.Statement .unrecognized4 := by unfold LayoutFits.Statement; decide
theorem LayoutFits.unrecognized5 : LayoutFits.Statement .unrecognized5 := by unfold LayoutFits.Statement; decide
theorem LayoutFits.unrecognized6 : LayoutFits.Statement .unrecognized6 := by unfold LayoutFits.Statement; decide
theorem LayoutFits.unrecognized7 : LayoutFits.Statement .unrecognized7 := by unfold LayoutFits.Statement; decide
theorem LayoutFits.unrecognized8 : LayoutFits.Statement .unrecognized8 := by unfold LayoutFits.Statement; decide
theorem LayoutFits.unrecognized9 : LayoutFits.Statement .unrecognized9 := by unfold LayoutFits.Statement; decide
theorem LayoutFits.unrecognized10 : LayoutFits.Statement .unrecognized10 := by unfold LayoutFits.Statement; decide
theorem LayoutFits.unrecognized11 : LayoutFits.Statement .unrecognized11 := by unfold LayoutFits.Statement; decide
theorem LayoutFits.unrecognized12 : LayoutFits.Statement .unrecognized12 := by unfold LayoutFits.Statement; decide
theorem LayoutFits.unrecognized13 : LayoutFits.Statement .unrecognized13 := by unfold LayoutFits.Statement; decide
theorem LayoutFits.unrecognized14 : LayoutFits.Statement .unrecognized14 := by unfold LayoutFits.Statement; decide
theorem LayoutFits.unrecognized15 : LayoutFits.Statement .unrecognized15 := by unfold LayoutFits.Statement; decide

end Sys2Proof.Laws
end

