-- ==== Sys2Proof/Laws/State.lean ====
section
/-! SUPPORT. Each named update of the state, field by field, so that no proof unfolds a record update. -/

namespace Sys2Proof.Machine

variable (s : State)

/-! `State.latch` -/
@[simp] theorem State.latch_dlDataMode (p : List Byte) : (s.latch p).dlDataMode = s.dlDataMode := rfl
@[simp] theorem State.latch_wsSet (p : List Byte) : (s.latch p).wsSet = s.wsSet := rfl
@[simp] theorem State.latch_phase (p : List Byte) : (s.latch p).phase = s.phase := rfl
@[simp] theorem State.latch_plen (p : List Byte) : (s.latch p).plen = some p.length := rfl
@[simp] theorem State.latch_pbuf (p : List Byte) : (s.latch p).pbuf = Memory.load p := rfl
@[simp] theorem State.latch_res (p : List Byte) : (s.latch p).res = s.res := rfl
@[simp] theorem State.latch_pending (p : List Byte) : (s.latch p).pending = s.pending := rfl
@[simp] theorem State.latch_reply (p : List Byte) : (s.latch p).reply = s.reply := rfl

/-! `State.endTransaction` -/
@[simp] theorem State.endTransaction_dlDataMode (r : Result) : (s.endTransaction r).dlDataMode = s.dlDataMode := rfl
@[simp] theorem State.endTransaction_wsSet (r : Result) : (s.endTransaction r).wsSet = s.wsSet := rfl
@[simp] theorem State.endTransaction_phase (r : Result) : (s.endTransaction r).phase = .done := rfl
@[simp] theorem State.endTransaction_plen (r : Result) : (s.endTransaction r).plen = s.plen := rfl
@[simp] theorem State.endTransaction_pbuf (r : Result) : (s.endTransaction r).pbuf = s.pbuf := rfl
@[simp] theorem State.endTransaction_res (r : Result) : (s.endTransaction r).res = some r := rfl
@[simp] theorem State.endTransaction_pending (r : Result) : (s.endTransaction r).pending = s.pending := rfl
@[simp] theorem State.endTransaction_reply (r : Result) : (s.endTransaction r).reply = s.reply := rfl

/-! `State.applyReset` -/
@[simp] theorem State.applyReset_dlDataMode : (s.applyReset).dlDataMode = s.dlDataMode := rfl
@[simp] theorem State.applyReset_wsSet : (s.applyReset).wsSet = s.wsSet := rfl
@[simp] theorem State.applyReset_phase : (s.applyReset).phase = .idle := rfl
@[simp] theorem State.applyReset_plen : (s.applyReset).plen = none := rfl
@[simp] theorem State.applyReset_pbuf : (s.applyReset).pbuf = [] := rfl
@[simp] theorem State.applyReset_res : (s.applyReset).res = none := rfl
@[simp] theorem State.applyReset_pending : (s.applyReset).pending = s.pending := rfl
@[simp] theorem State.applyReset_reply : (s.applyReset).reply = none := rfl

/-! `State.respond` -/
@[simp] theorem State.respond_dlDataMode : (s.respond).dlDataMode = s.dlDataMode := rfl
@[simp] theorem State.respond_wsSet : (s.respond).wsSet = s.wsSet := rfl
@[simp] theorem State.respond_phase : (s.respond).phase = s.phase := rfl
@[simp] theorem State.respond_plen : (s.respond).plen = s.plen := rfl
@[simp] theorem State.respond_pbuf : (s.respond).pbuf = s.pbuf := rfl
@[simp] theorem State.respond_res : (s.respond).res = s.res := rfl
@[simp] theorem State.respond_pending : (s.respond).pending = s.pending := rfl
@[simp] theorem State.respond_reply : (s.respond).reply = s.res.map .response := rfl

/-! `State.withRequest` -/
@[simp] theorem State.withRequest_dlDataMode (p : List Byte) : (s.withRequest p).dlDataMode = s.dlDataMode := rfl
@[simp] theorem State.withRequest_wsSet (p : List Byte) : (s.withRequest p).wsSet = s.wsSet := rfl
@[simp] theorem State.withRequest_phase (p : List Byte) : (s.withRequest p).phase = s.phase := rfl
@[simp] theorem State.withRequest_plen (p : List Byte) : (s.withRequest p).plen = s.plen := rfl
@[simp] theorem State.withRequest_pbuf (p : List Byte) : (s.withRequest p).pbuf = s.pbuf := rfl
@[simp] theorem State.withRequest_res (p : List Byte) : (s.withRequest p).res = s.res := rfl
@[simp] theorem State.withRequest_pending (p : List Byte) : (s.withRequest p).pending = .request p :: s.pending := rfl
@[simp] theorem State.withRequest_reply (p : List Byte) : (s.withRequest p).reply = s.reply := rfl

/-! `State.resetWith` -/
@[simp] theorem State.resetWith_dlDataMode (mode : DlDataMode) (ws : List Char) :
    (State.resetWith mode ws).dlDataMode = mode := rfl
@[simp] theorem State.resetWith_wsSet (mode : DlDataMode) (ws : List Char) :
    (State.resetWith mode ws).wsSet = ws := rfl
@[simp] theorem State.resetWith_phase (mode : DlDataMode) (ws : List Char) :
    (State.resetWith mode ws).phase = .idle := rfl
@[simp] theorem State.resetWith_plen (mode : DlDataMode) (ws : List Char) :
    (State.resetWith mode ws).plen = none := rfl
@[simp] theorem State.resetWith_pbuf (mode : DlDataMode) (ws : List Char) :
    (State.resetWith mode ws).pbuf = [] := rfl
@[simp] theorem State.resetWith_res (mode : DlDataMode) (ws : List Char) :
    (State.resetWith mode ws).res = none := rfl
@[simp] theorem State.resetWith_pending (mode : DlDataMode) (ws : List Char) :
    (State.resetWith mode ws).pending = [] := rfl
@[simp] theorem State.resetWith_reply (mode : DlDataMode) (ws : List Char) :
    (State.resetWith mode ws).reply = none := rfl

/-- A later transaction overwrites an earlier one's outcome whole (R29). -/
@[simp] theorem State.endTransaction_endTransaction (r r' : Result) :
    (s.endTransaction r).endTransaction r' = s.endTransaction r' := rfl

/-- A later load overwrites an earlier one whole (R27). -/
@[simp] theorem State.latch_latch (p p' : List Byte) : (s.latch p).latch p' = s.latch p' := rfl

end Sys2Proof.Machine
end

