-- ==== Sys2Proof/Laws/Transaction.lean ====
section
/-! SUPPORT. The transaction and the step: what an operation depends on, everything a transaction can do, and everything
a step can do, said once. -/

namespace Sys2Proof.Machine

/-- Two states with the same payload, length and strap: all that an operation depends on (R33). -/
structure SamePayload (s u : State) : Prop where
  plen : s.plen = u.plen
  pbuf : s.pbuf = u.pbuf
  mode : s.dlDataMode = u.dlDataMode

theorem SamePayload.storedByte {s u : State} (h : SamePayload s u) (a : Nat) : s.storedByte a = u.storedByte a := by
  simp [State.storedByte, h.pbuf]

theorem SamePayload.readLE {s u : State} (h : SamePayload s u) (n : Nat) : ∀ a, s.readLE a n = u.readLE a n := by
  induction n with
  | zero => intros; rfl
  | succ n ih => intro a; simp only [State.readLE, h.storedByte, ih]

theorem SamePayload.inBounds {s u : State} (h : SamePayload s u) (a n : Nat) : s.inBounds a n = u.inBounds a n := by
  rw [State.inBounds, State.inBounds, h.plen]

theorem SamePayload.memRead {s u : State} (h : SamePayload s u) (a : Nat) (w : Width) : s.memRead a w = u.memRead a w := by
  rw [State.memRead, State.memRead, h.inBounds, h.readLE]

theorem SamePayload.extract {s u : State} (h : SamePayload s u) (e : Extract) : s.extract e = u.extract e := by
  cases e <;>
    simp only [State.extract, State.bit, State.byte, State.shr1, State.le16bits, State.le16, State.le32, h.memRead]

theorem SamePayload.field {s u : State} (h : SamePayload s u) (w : Nat) (f : FieldSpec) : s.field w f = u.field w f := by
  simp only [State.field, h.extract]

theorem SamePayload.parsePositional {s u : State} (h : SamePayload s u) : parsePositional s = parsePositional u := by
  simp only [Machine.parsePositional, h.field]

theorem SamePayload.parseDlData {s u : State} (h : SamePayload s u) : parseDlData s = parseDlData u := by
  simp only [Machine.parseDlData, h.field, h.mode]

theorem SamePayload.parseDownlinkAck {s u : State} (h : SamePayload s u) :
    parseDownlinkAck s = parseDownlinkAck u := by
  simp only [Machine.parseDownlinkAck, h.field, h.parseDlData]

theorem SamePayload.parseDeviceStats {s u : State} (h : SamePayload s u) : parseDeviceStats s = parseDeviceStats u := by
  simp only [Machine.parseDeviceStats, h.field]

theorem SamePayload.tagBytes {s u : State} (h : SamePayload s u) : s.tagBytes = u.tagBytes := by
  simp only [State.tagBytes, State.byte, h.memRead, h.plen]

theorem SamePayload.withLength {s u t : State} (h : SamePayload s u) {need : Nat} {parse : State → Except Stop Result}
    (hp : parse s = parse u) (hs : s.withLength need parse = .next t) :
    ∃ r, t = s.endTransaction r ∧ u.withLength need parse = .next (u.endTransaction r) := by
  obtain ⟨len, hl, ⟨hlt, rfl⟩ | ⟨hge, r, hr, rfl⟩⟩ := State.withLength_next hs
  · exact ⟨_, rfl, State.withLength_short _ (h.plen ▸ hl) hlt⟩
  · refine ⟨r, rfl, ?_⟩
    rw [State.withLength_enough _ (h.plen ▸ hl) hge, ← hp, hr]
    rfl

/-- Everything an operation can do as a next state: write one value of `RES`, the same on every state of that payload. -/
theorem SamePayload.exec {s u t : State} (h : SamePayload s u) {i : Instr} (hs : Machine.exec i s = .next t) :
    ∃ r, t = s.endTransaction r ∧ Machine.exec i u = .next (u.endTransaction r) := by
  cases i with
  | positional =>
    simp only [Machine.exec, execPositional, ← h.mode] at *
    exact h.withLength h.parsePositional hs
  | downlinkAck =>
    simp only [Machine.exec, execDownlinkAck, ← h.mode] at *
    exact h.withLength h.parseDownlinkAck hs
  | deviceStats =>
    simp only [Machine.exec, execDeviceStats, ← h.mode] at *
    exact h.withLength h.parseDeviceStats hs
  | _ => exact ⟨.noneUnrecognized, by injection hs with hs; exact hs.symm, rfl⟩

/-- Everything an operation can do to the state it runs in. -/
theorem exec_next {s t : State} {i : Instr} (hs : exec i s = .next t) : ∃ r, t = s.endTransaction r := by
  obtain ⟨r, h, _⟩ := SamePayload.exec (⟨rfl, rfl, rfl⟩ : SamePayload s s) hs
  exact ⟨r, h⟩

/-- Everything a transaction can do as a next state. -/
theorem SamePayload.transaction {s u t : State} (h : SamePayload s u) (hs : Machine.transaction s = .next t) :
    ∃ r, t = s.endTransaction r ∧ Machine.transaction u = .next (u.endTransaction r) := by
  simp only [Machine.transaction, ← h.tagBytes] at *
  split at hs
  · cases hs
  · cases hs
  · split at hs
    · exact ⟨_, by injection hs with hs; exact hs.symm, rfl⟩
    · exact h.exec hs

theorem transaction_next {s t : State} (hs : transaction s = .next t) : ∃ r, t = s.endTransaction r := by
  obtain ⟨r, h, _⟩ := SamePayload.transaction (⟨rfl, rfl, rfl⟩ : SamePayload s s) hs
  exact ⟨r, h⟩

/-- On a latched payload of at least one byte the dispatcher reads byte 0 (R126). -/
theorem State.tagBytes_latch (s : State) (b : Byte) (p : List Byte) : (s.latch (b :: p)).tagBytes = .ok [b] := by
  have h := (s.latched_latch (b :: p)).byte (o := 0) (by simp) (by decide)
  show (do let x ← (s.latch (b :: p)).byte 0; return [BitVec.ofNat 8 x] : Except Stop (List Byte)) = _
  rw [h]
  simp [bind, Except.bind, pure, Except.pure]

/-- The transaction on a latched payload is the operation the payload decodes to (R125). -/
theorem transaction_latch (s : State) (p : List Byte) {i : Instr} (h : decode p = .ok i) :
    transaction (s.latch p) = exec i (s.latch p) := by
  cases p with
  | nil => cases h
  | cons b p =>
    simp only [transaction, State.tagBytes_latch]
    rw [show decode [b] = .ok i from h]

theorem respondAfter_next {x : Host.Outcome State Fault Refusal} {t : State} (h : respondAfter x = .next t) :
    ∃ u, x = .next u ∧ t = u.respond := by
  cases x with
  | next u => exact ⟨u, rfl, by injection h with h; exact h.symm⟩
  | fault f => cases h
  | refused r => cases h

/-- Everything a request can do as a next state (R39). -/
theorem request_next {s t : State} {p : List Byte} (h : request s p = .next t) :
    ∃ r, t = ((s.latch p).endTransaction r).respond := by
  obtain ⟨u, hu, rfl⟩ := respondAfter_next h
  obtain ⟨r, rfl⟩ := transaction_next hu
  exact ⟨r, rfl⟩

/-- Before the first transaction the host's read of `RES` faults (R41). -/
theorem State.hostRes_idle {s : State} (h : s.phase = .idle) : s.hostRes = .error .readBeforeDecode := by
  simp [State.hostRes, h]

/-- After a transaction it gives the outcome (R41). -/
theorem State.hostRes_done {s : State} {r : Result} (h : s.phase = .done) (hr : s.res = some r) : s.hostRes = .ok r := by
  simp [State.hostRes, h, hr]

/-- The one fault a read of `RES` can be. -/
theorem State.hostRes_error {s : State} {f : Fault} (h : s.hostRes = .error f) : f = .readBeforeDecode := by
  unfold State.hostRes at h
  split at h <;> cases h <;> rfl

/-- Everything a step can do as a next state: nothing; a reset; an answer and no other change; or a request. -/
theorem step_cases {s t : State} (h : step s = .next t) :
    (s.pending = [] ∧ t = s) ∨ ∃ op rest, s.pending = op :: rest ∧
      ((op = .reset ∧ t = ({ s with pending := rest } : State).applyReset) ∨
       (∃ y, t = { s with pending := rest, reply := y }) ∨
       (∃ p, (op = .request p ∨ ∃ input, op = .decodeHex .strict input) ∧
          request { s with pending := rest } p = .next t)) := by
  unfold step interactNext at h
  split at h
  · left
    injection h with h
    exact ⟨by assumption, h.symm⟩
  · right
    rename_i op rest hp
    refine ⟨op, rest, hp, ?_⟩
    cases op with
    | request p => exact .inr (.inr ⟨p, .inl rfl, h⟩)
    | decodeHex policy input =>
      cases policy with
      | permissive => cases h
      | strict =>
        simp only [interact, decodeHex] at h
        split at h
        · injection h with h
          exact .inr (.inl ⟨_, h.symm⟩)
        · exact .inr (.inr ⟨_, .inr ⟨_, rfl⟩, h⟩)
    | readRes =>
      simp only [interact, readRes] at h
      split at h
      · cases h
      · injection h with h
        exact .inr (.inl ⟨_, h.symm⟩)
    | readField f =>
      simp only [interact, readField] at h
      split at h
      · cases h
      · split at h
        · injection h with h
          exact .inr (.inl ⟨_, h.symm⟩)
        · cases h
    | reset =>
      injection h with h
      exact .inl ⟨rfl, h.symm⟩

/-! The fields of a latched payload: what each operand form gives, scaled (R110-R118). -/

theorem State.Latched.field_byte {s : State} {p : List Byte} (h : s.Latched p) {o k w : Nat} (ho : o < p.length)
    (hd : o < Config.pbufDepth) : s.field w ⟨.byte o, k⟩ = .ok (BitVec.ofInt w (k * (p[o]).toNat)) :=
  State.field_ok w (by simp [State.extract, h.byte ho hd, bind, Except.bind, pure, Except.pure])

theorem State.Latched.field_shr1 {s : State} {p : List Byte} (h : s.Latched p) {o k w : Nat} (ho : o < p.length)
    (hd : o < Config.pbufDepth) : s.field w ⟨.shr1 o, k⟩ = .ok (BitVec.ofInt w (k * ((p[o]).toNat / 2 : Nat))) := by
  refine State.field_ok w ?_
  simp only [State.extract, State.shr1, h.byte ho hd, bind, Except.bind, pure, Except.pure, Nat.shiftRight_eq_div_pow]

theorem State.Latched.field_bit {s : State} {p : List Byte} (h : s.Latched p) {i k w : Nat} (ho : 0 < p.length)
    (hi : i = 4 ∨ i = 5) : s.field w ⟨.bit i, k⟩ = .ok (BitVec.ofInt w (k * ((p[0]).toNat / 2 ^ i % 2 : Nat))) := by
  refine State.field_ok w ?_
  simp only [State.extract, State.bit, hi, if_true, h.byte ho (show 0 < 12 by decide), bind, Except.bind, pure,
    Except.pure, Nat.shiftRight_eq_div_pow, Nat.and_one_is_mod]

theorem State.Latched.field_le16bits {s : State} {p : List Byte} (h : s.Latched p) {o bo bl k w : Nat}
    (ho : o + 1 < p.length) (hd : o + 1 < Config.pbufDepth) (h1 : bo ≤ 15) (h2 : bl ≤ 16) :
    s.field w ⟨.le16bits o bo bl, k⟩ =
      .ok (BitVec.ofInt w (k * (((p[o]).toNat + 256 * (p[o + 1]).toNat) / 2 ^ bo % 2 ^ bl : Nat))) := by
  refine State.field_ok w ?_
  simp only [State.extract, State.le16bits_ok (h.le16 ho hd) h1 h2, bind, Except.bind, pure, Except.pure]

theorem State.Latched.field_le32 {s : State} {p : List Byte} (h : s.Latched p) {o k w : Nat} (ho : o + 4 ≤ p.length)
    (hd : o + 4 ≤ Config.pbufDepth) :
    s.field w ⟨.le32 o, k⟩ = .ok (BitVec.ofInt w (k * sext32 (leNumber ((p.drop o).take 4)))) := by
  refine State.field_ok w ?_
  have := h.memRead (a := o) (w := .w32) ho hd
  simp only [State.extract, State.le32, this, bind, Except.bind, pure, Except.pure, Width.bytes]

end Sys2Proof.Machine
end

