-- ==== Sys2Proof/Tests/Slice0.lean ====
section
/-! SUPPORT. The model's own tests: the well-formedness checks each refusing an ill-formed term, decoding by words written out
from the encodings, the spec's test vectors (95_test_vectors.md) as single steps, and for each statement with hypotheses
a concrete case that meets them. -/

namespace Sys2Proof.Tests

/-! One theorem after another: the tests then need few threads. -/
set_option Elab.async false

open Sys2Proof Sys2Proof.Machine Sys2Proof.Reference

/-! Projections of an outcome, and small states. -/

/-- `RES` after a step, where there is a next state that holds one. -/
def resOf : Host.Outcome State Fault Refusal → Option Result
  | .next t => t.res
  | .fault _ => none
  | .refused _ => none

/-- What the host got back, where there is a next state. -/
def replyOf : Host.Outcome State Fault Refusal → Option Reply
  | .next t => t.reply
  | .fault _ => none
  | .refused _ => none

/-- The phase after a step, where there is a next state. -/
def phaseOf : Host.Outcome State Fault Refusal → Option Phase
  | .next t => some t.phase
  | .fault _ => none
  | .refused _ => none

def faultOf : Host.Outcome State Fault Refusal → Option Fault
  | .next _ => none
  | .fault f => some f
  | .refused _ => none

def refusalOf : Host.Outcome State Fault Refusal → Option Refusal
  | .next _ => none
  | .fault _ => none
  | .refused r => some r

/-- A state just after reset, with one interaction pending. -/
def facing (mode : DlDataMode) (op : HostOp) : State :=
  { State.resetWith mode Config.defaultWsSet with pending := [op] }

/-- `RES` after one REQUEST from reset. -/
def decoded (mode : DlDataMode) (p : List Byte) : Option Result := resOf (step (facing mode (.request p)))

/-- A state with a payload latched. -/
def holding (mode : DlDataMode) (p : List Byte) : State := (State.resetWith mode Config.defaultWsSet).latch p

/-- A state after a transaction that ended in `r`, with one interaction pending. -/
def after (r : Result) (op : HostOp) : State :=
  { State.resetWith .payload Config.defaultWsSet with
    phase := .done, plen := some 1, pbuf := [(0, 3#8)], res := some r, pending := [op] }

/-- The payload of W1. -/
def w1 : List Byte := [0x30, 0x43, 0xD0, 0xD0, 0xEB, 0xE6, 0x64, 0x1E, 0x5A, 0x00, 0x00, 0xD5]

/-- The payload of V-DL-1. -/
def dl1 : List Byte := [0x11, 0xFF, 0x02, 0x0A, 0xA0, 0xA1, 0xA2, 0xA3, 0xA4, 0xA5, 0xA6, 0xA7]

/-- The payload `SREF` of S1. -/
def sref : List Byte := [0xC2, 0x92, 0xBB, 0x40, 0x88, 0x93, 0x57, 0x64, 0xC8, 0x4D, 0xBD, 0xC7]

/-! Well-formedness: each check refuses an ill-formed term, and accepts the value beside it (R115, R117, R118, R128). -/

theorem test_wf_bit_offset : extractWellFormed (.le16bits 0 16 1) = false ∧ extractWellFormed (.le16bits 0 15 1) = true := by
  decide

theorem test_wf_bit_length : extractWellFormed (.le16bits 0 0 17) = false ∧ extractWellFormed (.le16bits 0 0 16) = true := by
  decide

theorem test_wf_flag_bit :
    extractWellFormed (.bit 3) = false ∧ extractWellFormed (.bit 6) = false ∧ extractWellFormed (.bit 4) = true ∧
    extractWellFormed (.bit 5) = true := by
  decide

theorem test_wf_scale :
    scaleWellFormed 3 = false ∧ scaleWellFormed 0 = false ∧ [1, 2, 25, 32].all scaleWellFormed = true := by
  decide

theorem test_wf_reach :
    fieldWellFormed 12 ⟨.byte 12, 1⟩ = false ∧ fieldWellFormed 12 ⟨.le16bits 11 0 1, 1⟩ = false ∧
    fieldWellFormed 12 ⟨.le32 9, 1⟩ = false ∧ fieldWellFormed 12 ⟨.le32 8, 1⟩ = true ∧
    fieldWellFormed 4 (Layout.dlData 0) = false := by
  decide

/-! Decoding: byte 0 written out bit by bit, high nibble first (R70, R79). -/

theorem test_decode_positional : decode [0b00110000#8, 0x43#8] = .ok .positional := by decide
theorem test_decode_downlinkAck : decode [0b00010001#8] = .ok .downlinkAck := by decide
theorem test_decode_deviceStats : decode [0b11000010#8] = .ok .deviceStats := by decide
theorem test_decode_unrecognized3 : decode [0b00110011#8] = .ok .unrecognized3 := by decide
theorem test_decode_unrecognized4 : decode [0b00000100#8] = .ok .unrecognized4 := by decide
theorem test_decode_unrecognized5 : decode [0b11110101#8] = .ok .unrecognized5 := by decide
theorem test_decode_unrecognized6 : decode [0b00000110#8] = .ok .unrecognized6 := by decide
theorem test_decode_unrecognized7 : decode [0b00000111#8] = .ok .unrecognized7 := by decide
theorem test_decode_unrecognized8 : decode [0b00001000#8] = .ok .unrecognized8 := by decide
theorem test_decode_unrecognized9 : decode [0b10001001#8] = .ok .unrecognized9 := by decide
theorem test_decode_unrecognized10 : decode [0b00001010#8] = .ok .unrecognized10 := by decide
theorem test_decode_unrecognized11 : decode [0b00001011#8] = .ok .unrecognized11 := by decide
theorem test_decode_unrecognized12 : decode [0b00001100#8] = .ok .unrecognized12 := by decide
theorem test_decode_unrecognized13 : decode [0b00011101#8] = .ok .unrecognized13 := by decide
theorem test_decode_unrecognized14 : decode [0b00001110#8] = .ok .unrecognized14 := by decide
theorem test_decode_unrecognized15 : decode [0b00001111#8] = .ok .unrecognized15 := by decide
theorem test_decode_empty : decode [] = .error .emptyInput := by decide

/-- The table's numbering of bits: byte 1 is bits 15..8 (R17); bits from `nbits` on are 0. -/
theorem test_table_word :
    decodeTableWord 96 0xD500005A1E64E6EBD0D04330 = some .positional ∧ decodeTableWord 8 0x1F2 = some .deviceStats := by
  decide

/-- The encoders lay the spec's vectors out byte for byte: W1 (R73), V-DL-1 (R74) and S1 (R75). -/
theorem test_encode_positional :
    encodePositional ⟨1, 1, 0, BitVec.ofInt 32 (-338636733), 1511941350, 0, 0, 0xD5⟩ = w1 := by
  decide +kernel

theorem test_encode_downlinkAck :
    encodeDownlinkAck ⟨1, 0, 0xFF, 2, 10, #v[0xA0, 0xA1, 0xA2, 0xA3, 0xA4, 0xA5, 0xA6, 0xA7]⟩ = dl1 := by
  decide +kernel

theorem test_encode_deviceStats : encodeDeviceStats ⟨300, 1500, 64, 5000, 700, 200, 400, 333, 222, 99⟩ = sref := by
  decide +kernel

/-! The host's fetch: the very next step from reset runs the placed operation. -/

theorem test_fetch_runs : resOf (step (State.reset.withFetchWord 8 3)) = some .noneUnrecognized := by decide

theorem test_fetch_positional :
    (resOf (step (State.reset.withFetchWord 96 0xD500005A1E64E6EBD0D04330))).map Result.kind = some .recPositional := by
  decide +kernel

/-! POSITIONAL (section 2.4). -/

/-- V-POS-2: both coordinates -2147483648, out of range and returned (R144). -/
theorem test_positional_minimum :
    decoded .payload [0xF0, 0x00, 0x00, 0x00, 0x80, 0x00, 0x00, 0x00, 0x80, 0x00, 0xFF, 0xFF] =
      some (.positional ⟨1, 1, BitVec.ofInt 32 (-2147483648), BitVec.ofInt 32 (-2147483648), 0, 255, 6375⟩) := by
  decide +kernel

/-- V-POS-3: byte 0 bits 7..6 set and ignored, heading 510. -/
theorem test_positional_maximum :
    decoded .literal [0xC0, 0xFF, 0xFF, 0xFF, 0x7F, 0xFF, 0xFF, 0xFF, 0x7F, 0xFF, 0xFF, 0x01] =
      some (.positional ⟨0, 0, BitVec.ofInt 32 2147483647, BitVec.ofInt 32 2147483647, 510, 255, 25⟩) := by
  decide +kernel

/-! DOWNLINK_ACK (section 2.5). -/

/-- V-DL-1 in both modes. -/
theorem test_downlinkAck_modes :
    decoded .payload dl1 =
      some (.downlinkAck ⟨1, 2, 10, #v[0xA0, 0xA1, 0xA2, 0xA3, 0xA4, 0xA5, 0xA6, 0xA7]⟩) ∧
    decoded .literal dl1 = some (.downlinkAck ⟨1, 2, 10, #v[4, 5, 6, 7, 8, 9, 10, 11]⟩) := by
  decide +kernel

/-- V-DL-2 (11 bytes), V-DL-4 (4 bytes; bits 7..5 set, bit 4 clear) and V-DL-5 (3 bytes): where the modes' minima lie. -/
theorem test_downlinkAck_lengths :
    decoded .payload (dl1.take 11) = some .errTruncated ∧
    decoded .literal [0xE1, 0xFF, 0x00, 0x00] = some (.downlinkAck ⟨0, 0, 0, #v[4, 5, 6, 7, 8, 9, 10, 11]⟩) ∧
    decoded .payload [0xE1, 0xFF, 0x00, 0x00] = some .errTruncated ∧
    decoded .literal [0x11, 0x00, 0x01] = some .errTruncated := by
  decide +kernel

/-! DEVICE_STATS (section 2.6). -/

/-- S1, and S6: a thirteenth byte is ignored. -/
theorem test_deviceStats_reference :
    decoded .payload sref = some (.deviceStats ⟨300, 48000, 2048, 5000, 22400, 6400, 400, 333, 222, 99⟩) ∧
    decoded .payload (sref ++ [0xEE]) =
      some (.deviceStats ⟨300, 48000, 2048, 5000, 22400, 6400, 400, 333, 222, 99⟩) := by
  decide +kernel

/-- S5, whose fields alternate bits, and S4, each field's lowest bit alone. -/
theorem test_deviceStats_isolation :
    decoded .literal [0x52, 0x55, 0x55, 0x55, 0x55, 0x55, 0x55, 0xD5, 0xAA, 0x55, 0x55, 0xAB] =
      some (.deviceStats ⟨341, 21824, 2720, 5461, 21824, 5440, 341, 341, 170, 85⟩) ∧
    decoded .literal [0x12, 0x20, 0x00, 0x01, 0x01, 0x20, 0x80, 0x80, 0x00, 0x01, 0x02, 0x02] =
      some (.deviceStats ⟨1, 32, 32, 1, 32, 32, 1, 1, 1, 1⟩) := by
  decide +kernel

/-! The dispatcher (section 2.3): V-DSP-1, 2, 6, 7, 8, 9, 10. -/

theorem test_dispatch_short :
    decoded .payload [] = some .noneEmpty ∧ decoded .payload [0x00] = some .errTruncated ∧
    decoded .payload [0x03] = some .noneUnrecognized ∧ decoded .literal [0x0F] = some .noneUnrecognized := by
  decide +kernel

theorem test_dispatch_long :
    decoded .payload (0xF3 :: List.replicate 13 0xFF) = some .noneUnrecognized ∧
    decoded .payload (0x00 :: (w1.drop 1).take 10) = some .errTruncated ∧
    decoded .payload ((0x00 :: w1.drop 1) ++ [0xFF]) =
      some (.positional ⟨0, 0, BitVec.ofInt 32 (-338636733), 1511941350, 0, 0, 5325⟩) := by
  decide +kernel

/-! The extractor (section 2.2). -/

/-- V-EXT-4 to V-EXT-8, with windows at an odd index too. -/
theorem test_extract_bits :
    (holding .payload [0x10, 0x02]).le16bits 0 4 9 = .ok 33 ∧ (holding .payload [0, 0x34, 0x12]).le16bits 1 0 16 = .ok 0x1234 ∧
    (holding .payload [0xFF, 0xFF]).le16bits 0 0 0 = .ok 0 ∧ (holding .payload [0x00, 0x80]).le16bits 0 15 1 = .ok 1 ∧
    (holding .payload [0xFF, 0xFF]).le16bits 0 12 8 = .ok 15 := by
  decide +kernel

/-- V-EXT-9, V-EXT-11, V-EXT-13. -/
theorem test_extract_signed :
    (holding .payload [0x00, 0x00, 0x00, 0x80]).le32 0 = .ok (-2147483648) ∧
    (holding .payload [0xFF, 0xFF, 0xFF, 0xFF]).le32 0 = .ok (-1) ∧ (holding .payload w1).le32 1 = .ok (-338636733) := by
  decide +kernel

/-- V-EXT-14, V-EXT-16, V-EXT-17. -/
theorem test_extract_bytes :
    (holding .payload w1).shr1 11 = .ok 106 ∧ (holding .payload w1).bit 4 = .ok 1 ∧ (holding .payload w1).bit 5 = .ok 1 ∧
    (holding .payload [0xC0]).bit 4 = .ok 0 ∧ (holding .payload [0xC0]).bit 5 = .ok 0 := by
  decide +kernel

/-- V-EXT-18, and an argument outside the domain (R115). -/
theorem test_extract_stops :
    (holding .payload w1).le16 11 = .error (.fault (.boundsFault 11 2)) ∧
    (holding .payload w1).le16bits 0 16 1 = .error (.refused (.extractorDomain 0 16 1)) := by
  decide +kernel

/-! The front end (section 2.1). -/

/-- V-HEX-1, 3, 4, 5, 6. -/
theorem test_hex_bytes :
    hex2b Config.defaultWsSet none = .ok [] ∧ hex2b Config.defaultWsSet (some [' ']) = .ok [] ∧
    hex2b Config.defaultWsSet (some ['0', 'x']) = .ok [] ∧ hex2b Config.defaultWsSet (some ['3']) = .ok [] ∧
    hex2b Config.defaultWsSet (some [' ', '0', 'x', '3', '0', '4', '3', 'd', '0', ' ']) = .ok [0x30, 0x43, 0xD0] := by
  decide +kernel

/-- V-HEX-8, 9, 10, 11, and R98's `0X30`. -/
theorem test_hex_malformed :
    hex2b Config.defaultWsSet (some ['3', '0', ' ', '4', '3']) = .error 2 ∧
    hex2b Config.defaultWsSet (some ['z', 'z']) = .error 0 ∧ hex2b Config.defaultWsSet (some ['3', '0', 'z']) = .error 2 ∧
    hex2b Config.defaultWsSet (some ['0', 'x', '0', 'x', '3', '0']) = .error 1 ∧
    hex2b Config.defaultWsSet (some ['0', 'X', '3', '0']) = .error 1 := by
  decide +kernel

/-! The host's interactions (programs P1, P4). -/

/-- P4 step 1: MalformedHex at position 0, with `PHASE` still `IDLE` and `RES` without a value. -/
theorem test_malformed_leaves_state :
    replyOf (step (facing .payload (.decodeHex .strict (some ['z', 'z'])))) = some (.malformedHex 0) ∧
    phaseOf (step (facing .payload (.decodeHex .strict (some ['z', 'z'])))) = some .idle ∧
    resOf (step (facing .payload (.decodeHex .strict (some ['z', 'z'])))) = none := by
  decide +kernel

/-- P4, first program: READ RES before any request; and the permissive policy (R13). -/
theorem test_host_stops :
    faultOf (step (facing .payload .readRes)) = some .readBeforeDecode ∧
    refusalOf (step (facing .payload (.decodeHex .permissive none))) = some .permissiveHexPolicy := by
  decide

/-- P1 steps 4 and 5: READ RES gives the outcome; `LAT_RAW` is then a fault. -/
theorem test_read_after_unrecognized :
    replyOf (step (after .noneUnrecognized .readRes)) = some (.response .noneUnrecognized) ∧
    faultOf (step (after .noneUnrecognized (.readField .latRaw))) = some .noRecordField ∧
    replyOf (step (after .noneUnrecognized (.readField .kind))) = some (.field 1) := by
  decide

/-- The firmware texts of section 2.5: "2.10", "0.0", "255.255". -/
theorem test_firmware_text :
    (DownlinkAckRecord.mk 1 2 10 #v[4, 5, 6, 7, 8, 9, 10, 11]).firmwareVersion = ['2', '.', '1', '0'] ∧
    (DownlinkAckRecord.mk 0 0 0 #v[4, 5, 6, 7, 8, 9, 10, 11]).firmwareVersion = ['0', '.', '0'] ∧
    (DownlinkAckRecord.mk 0 255 255 #v[4, 5, 6, 7, 8, 9, 10, 11]).firmwareVersion =
      ['2', '5', '5', '.', '2', '5', '5'] := by
  decide +kernel

/-! Witnesses: for each statement with hypotheses, a concrete case that meets all of them, and one for each clause. -/

theorem witness_StepRunsDecodedOperation :
    (facing .payload (.request w1)).pending = .request w1 :: [] ∧ decode w1 = .ok .positional ∧
    Instr.positional.wellFormed = true := by
  decide +kernel

theorem witness_EmptyPayloadGivesNoneEmpty : (facing .payload (.request [])).pending = .request [] :: [] := by decide

theorem witness_LowNibbleAloneSelects :
    (15, Instr.unrecognized15) ∈ opcodeRows ∧ (0xFF#8 &&& 0x0F#8).toNat = 15 ∧ (0, Instr.positional) ∈ opcodeRows ∧
    (0xF0#8 &&& 0x0F#8).toNat = 0 := by
  decide

/-- Twelve bytes, the least length a record operation completes at, and its tag clause. -/
theorem witness_PositionalGivesRecord :
    (holding .payload w1).Latched w1 ∧ 12 ≤ w1.length ∧ byteAt w1 0 % 16 = 0 := by
  decide +kernel

/-- Both modes, each at its least length, and one byte fewer. -/
theorem witness_DownlinkAckGivesRecord :
    (holding .payload dl1).Latched dl1 ∧ (holding .payload dl1).dlDataMode = .payload ∧
    (if (holding .payload dl1).dlDataMode = .payload then 12 else 4) ≤ dl1.length ∧
    (holding .literal (dl1.take 4)).Latched (dl1.take 4) ∧ (holding .literal (dl1.take 4)).dlDataMode = .literal ∧
    (if (holding .literal (dl1.take 4)).dlDataMode = .payload then 12 else 4) ≤ (dl1.take 4).length ∧
    byteAt dl1 0 % 16 = 1 ∧ (holding .payload (dl1.take 11)).Latched (dl1.take 11) ∧ (dl1.take 11).length < 12 := by
  decide +kernel

theorem witness_DeviceStatsGivesRecord :
    (holding .payload sref).Latched sref ∧ 12 ≤ sref.length ∧ byteAt sref 0 % 16 = 2 := by
  decide +kernel

/-- The least and the greatest tag outside the records. -/
theorem witness_UnrecognizedTagsGiveNoResult :
    Instr.unrecognized3 ∈ unrecognizedOps ∧ Instr.unrecognized15 ∈ unrecognizedOps ∧
    (facing .payload (.request [0xF3])).pending = .request (0xF3 :: []) :: [] ∧ 3 ≤ (0xF3#8 &&& 0x0F#8).toNat ∧
    3 ≤ (0x0F#8 &&& 0x0F#8).toNat := by
  decide

/-- One byte below each minimum: 11 of 12, and 3 of 4 in `LITERAL` mode. -/
theorem witness_ShortPayloadGivesTruncated :
    (holding .payload (w1.take 11)).plen = some 11 ∧ 11 < 12 ∧
    (holding .literal (dl1.take 3)).plen = some 3 ∧
    3 < (if (holding .literal (dl1.take 3)).dlDataMode = .payload then 12 else 4) ∧
    (facing .payload (.request (0xC2 :: []))).pending = .request (0xC2 :: []) :: [] ∧ (0xC2#8 &&& 0x0F#8).toNat < 3 ∧
    (0xC2#8 :: []).length < minimumFor (facing .payload (.request (0xC2 :: []))).dlDataMode (0xC2#8 &&& 0x0F#8).toNat := by
  decide +kernel

/-- A latched payload longer than the buffer, one of the buffer's depth, and an empty one. -/
theorem witness_EveryOperationCompletes :
    (holding .payload (w1 ++ [0xFF])).plen = some 13 ∧ (holding .payload (w1 ++ [0xFF])).BufferCovers 13 ∧
    (holding .payload w1).plen = some 12 ∧ (holding .payload w1).BufferCovers 12 ∧
    (holding .literal []).plen = some 0 ∧ (holding .literal []).BufferCovers 0 := by
  decide +kernel

theorem witness_NoLatchedPayloadStops :
    Instr.downlinkAck ∈ [Instr.positional, .downlinkAck, .deviceStats] ∧ State.reset.plen = none := by
  decide

theorem witness_OperationFrame : ∃ t, exec .unrecognized3 (holding .payload [3]) = .next t := ⟨_, rfl⟩

theorem witness_OperationWritesItsOwnKind : ∃ t, exec .positional (holding .payload [0]) = .next t := ⟨_, rfl⟩

/-- An all-ones payload of each kind, with every scaled field at its greatest value. -/
theorem witness_ResultFieldsInRange :
    (∃ t r, exec .positional (holding .payload (0xF0 :: List.replicate 11 0xFF)) = .next t ∧ t.res = some (.positional r)) ∧
    ∃ t r, exec .deviceStats (holding .payload (0xF2 :: List.replicate 11 0xFF)) = .next t ∧
      t.res = some (.deviceStats r) :=
  ⟨⟨_, _, rfl, rfl⟩, ⟨_, _, rfl, rfl⟩⟩

/-- The least width, and lengths on both sides of saturation. -/
theorem witness_SaturatingLengthIsExact :
    (holding .payload (List.replicate 15 0)).plen = some 15 ∧ (holding .payload (List.replicate 16 0)).plen = some 16 ∧
    4 ≤ 4 := by
  decide +kernel

/-- Each window at the last index it fits at and at the first it does not. -/
theorem witness_ExtractorPrimitives :
    (holding .payload w1).Latched w1 ∧ 11 + 1 ≤ w1.length ∧ 10 + 2 ≤ w1.length ∧ 8 + 4 ≤ w1.length ∧ 15 ≤ 15 ∧ 16 ≤ 16 ∧
    (holding .payload w1).plen = some 12 ∧ 12 < 12 + 1 ∧ 12 < 11 + 2 ∧ 12 < 9 + 4 ∧
    (holding .payload []).plen = some 0 := by
  decide +kernel

theorem witness_ExtractorDomainRefused :
    (15 < 16 ∨ 16 < 0) ∧ (15 < 0 ∨ 16 < 17) ∧ Layout.txCount ∈ operands .payload .deviceStats ∧
    Layout.txCount.src = .le16bits 1 5 11 := by
  decide

theorem witness_MaskFormsAgree : 0 ≤ 16 ∧ 16 ≤ 16 ∧ 16 < 17 := by decide

theorem witness_KindCodes :
    (facing .payload (.decodeHex .strict (some ['z', 'z']))).pending = .decodeHex .strict (some ['z', 'z']) :: [] ∧
    hex2b (facing .payload (.decodeHex .strict (some ['z', 'z']))).wsSet (some ['z', 'z']) = .error 0 := by
  decide +kernel

theorem witness_BitFieldIsWindowBits : 0xFFFF < 2 ^ 16 := by decide

theorem witness_PositionalEncodingReadsBack :
    (holding .payload w1).Latched
      (encodePositional ⟨1, 1, 0, BitVec.ofInt 32 (-338636733), 1511941350, 0, 0, 0xD5⟩) := by
  decide +kernel

theorem witness_DownlinkAckEncodingReadsBack :
    (holding .payload dl1).dlDataMode = .payload ∧ (holding .literal (dl1.take 4)).dlDataMode = .literal ∧
    (holding .payload dl1).Latched
      (encodeDownlinkAck ⟨1, 0, 0xFF, 2, 10, #v[0xA0, 0xA1, 0xA2, 0xA3, 0xA4, 0xA5, 0xA6, 0xA7]⟩) ∧
    (holding .literal (dl1.take 4)).Latched
      ((encodeDownlinkAck ⟨1, 0, 0xFF, 2, 10, #v[0xA0, 0xA1, 0xA2, 0xA3, 0xA4, 0xA5, 0xA6, 0xA7]⟩).take 4) := by
  decide +kernel

theorem witness_DeviceStatsEncodingReadsBack :
    (holding .payload sref).Latched (encodeDeviceStats ⟨300, 1500, 64, 5000, 700, 200, 400, 333, 222, 99⟩) := by
  decide +kernel

theorem witness_StatsFieldsTilePayload : sref.length = 12 ∧ decode sref = .ok .deviceStats := by decide

/-- One payload per case of the outcome: empty, unrecognized, truncated, and each record. -/
theorem witness_RequestGivesSpecifiedOutcome :
    (facing .payload (.request w1)).pending = .request w1 :: [] ∧ OutcomeOf .payload [] .noneEmpty ∧
    OutcomeOf .literal [0xFF] .noneUnrecognized ∧ OutcomeOf .payload (dl1.take 11) .errTruncated ∧
    OutcomeOf .payload w1 (.positional ⟨1, 1, BitVec.ofInt 32 (-338636733), 1511941350, 0, 0, 5325⟩) ∧
    OutcomeOf .payload dl1 (.downlinkAck ⟨1, 2, 10, #v[0xA0, 0xA1, 0xA2, 0xA3, 0xA4, 0xA5, 0xA6, 0xA7]⟩) ∧
    OutcomeOf .literal (dl1.take 4) (.downlinkAck ⟨1, 2, 10, #v[4, 5, 6, 7, 8, 9, 10, 11]⟩) ∧
    OutcomeOf .literal sref (.deviceStats ⟨300, 48000, 2048, 5000, 22400, 6400, 400, 333, 222, 99⟩) := by
  refine ⟨by decide, by simp [OutcomeOf], ?_, ?_, ⟨_, rfl, ?_⟩, ⟨_, rfl, ?_⟩, ⟨_, rfl, ?_⟩, ⟨_, rfl, ?_⟩⟩
  · simp [OutcomeOf, payloadBits, payloadNumber]
  · simp [OutcomeOf, payloadBits, payloadNumber, dl1, minimumFor]
  · unfold PositionalOf
    decide +kernel
  · unfold DownlinkAckOf
    decide +kernel
  · unfold DownlinkAckOf
    decide +kernel
  · unfold DeviceStatsOf
    decide +kernel

/-- A machine just after reset and one with an earlier outcome, with the same request pending. -/
theorem witness_RequestIgnoresHistory :
    (facing .payload (.request w1)).pending = .request w1 :: [] ∧
    (after .errTruncated (.request w1)).pending = .request w1 :: [] ∧
    (facing .payload (.request w1)).dlDataMode = (after .errTruncated (.request w1)).dlDataMode := by
  decide

/-- 12 bytes against 13; and in `LITERAL` mode 4 bytes against 12 with another byte 1. -/
theorem witness_UnreadBytesIgnored :
    minimumFor .payload (byteAt w1 0 % 16) ≤ w1.length ∧ minimumFor .payload (byteAt w1 0 % 16) ≤ (w1 ++ [0xFF]).length ∧
    (∀ i ∈ indicesRead .payload (byteAt w1 0 % 16), byteAt w1 i = byteAt (w1 ++ [0xFF]) i) ∧
    minimumFor .literal (byteAt dl1 0 % 16) ≤ [0x11, 0x00, 0x02, 0x0A].length ∧
    (∀ i ∈ indicesRead .literal (byteAt dl1 0 % 16), byteAt dl1 i = byteAt [0x11, 0x00, 0x02, 0x0A] i) := by
  decide +kernel

/-- W1 with byte 0 bits 7..6 set, and V-DL-1 with byte 0 bits 7..5 and byte 1 changed. -/
theorem witness_UnusedBitsIgnored :
    (payloadBits w1 0 4 = 0 ∧ payloadBits (0xF0 :: w1.drop 1) 0 6 = payloadBits w1 0 6 ∧
      w1.length = (0xF0#8 :: w1.drop 1).length ∧ ∀ i, 1 ≤ i → byteAt w1 i = byteAt (0xF0 :: w1.drop 1) i) ∧
    (payloadBits dl1 0 4 = 1 ∧ payloadBits (0xF1 :: 0x00 :: dl1.drop 2) 0 5 = payloadBits dl1 0 5 ∧
      dl1.length = (0xF1#8 :: 0x00#8 :: dl1.drop 2).length ∧
      ∀ i, 2 ≤ i → byteAt dl1 i = byteAt (0xF1 :: 0x00 :: dl1.drop 2) i) := by
  refine ⟨⟨by decide, by decide, by decide, ?_⟩, ⟨by decide, by decide, by decide, ?_⟩⟩
  · intro i hi
    match i, hi with
    | i + 1, _ => rfl
  · intro i hi
    match i, hi with
    | i + 2, _ => rfl

theorem witness_ReadResRule :
    (facing .payload .readRes).pending = .readRes :: [] ∧ (facing .payload .readRes).phase = .idle ∧
    (after .noneEmpty .readRes).pending = .readRes :: [] ∧ (after .noneEmpty .readRes).phase = .done ∧
    (after .noneEmpty .readRes).res = some .noneEmpty := by
  decide

/-- A field of the kind `RES` holds, a field it does not hold, and `RES.KIND`. -/
theorem witness_FieldReadRule :
    (facing .payload (.readField .kind)).pending = .readField .kind :: [] ∧
    (facing .payload (.readField .kind)).phase = .idle ∧
    (after (.positional ⟨0, 0, 0, 0, 0, 0, 0⟩) (.readField .battMv)).phase = .done ∧
    (after (.positional ⟨0, 0, 0, 0, 0, 0, 0⟩) (.readField .battMv)).res = some (.positional ⟨0, 0, 0, 0, 0, 0, 0⟩) ∧
    fieldKind .battMv = some (Result.positional ⟨0, 0, 0, 0, 0, 0, 0⟩).kind ∧
    (.battMv, 0) ∈ recordFields (.positional ⟨0, 0, 0, 0, 0, 0, 0⟩) ∧
    fieldKind .txCount ≠ some (Result.positional ⟨0, 0, 0, 0, 0, 0, 0⟩).kind := by
  decide

theorem witness_ResetLeavesNoValues : (after .noneEmpty .reset).pending = .reset :: [] := by decide

theorem witness_OnlyResetSetsIdle :
    (after .noneEmpty .reset).phase = .done ∧ phaseOf (step (after .noneEmpty .reset)) = some .idle := by
  decide

theorem witness_OnlyRequestsWritePayload :
    ∃ t, step (facing .payload (.request [3])) = .next t ∧ t.plen ≠ (facing .payload (.request [3])).plen :=
  ⟨_, rfl, by decide⟩

theorem witness_StrapsNeverChange : ∃ t, step (facing .literal (.request [3])) = .next t := ⟨_, rfl⟩

theorem witness_NoInteractionNoChange : State.reset.pending = [] := by decide

/-- Spaces are in the default `WS_SET`. -/
theorem spaces_are_white {c : Char} (h : c ∈ [' ', ' ']) : c ∈ Config.defaultWsSet := by
  simp only [List.mem_cons, List.not_mem_nil, or_false, or_self] at h
  subst h
  decide

/-- White space alone, and absent input. -/
theorem witness_EmptyInputGivesNoBytes :
    (∀ c ∈ [' ', ' '], c ∈ Config.defaultWsSet) ∧
    (facing .payload (.decodeHex .strict (some [' ', ' ']))).pending = .decodeHex .strict (some [' ', ' ']) :: [] ∧
    (facing .payload (.decodeHex .strict none)).pending = .decodeHex .strict none :: [] :=
  ⟨fun _ h => spaces_are_white h, by decide, by decide⟩

/-- A body with its prefix, between white space, and one without. -/
theorem witness_BodyOf :
    BodyOf Config.defaultWsSet [' ', '0', 'x', '3', '0', ' '] ['3', '0'] ∧ BodyOf Config.defaultWsSet ['3', 'z'] ['3', 'z'] := by
  refine ⟨⟨[' '], ['0', 'x', '3', '0'], [' '], rfl,
      fun c h => spaces_are_white (List.mem_cons_of_mem _ h), fun c h => spaces_are_white (List.mem_cons_of_mem _ h), ?_, ?_, .inl rfl⟩,
    ⟨[], ['3', 'z'], [], rfl, by simp, by simp, ?_, ?_, .inr ⟨rfl, by simp⟩⟩⟩
  all_goals
    intro c hc
    injection hc with hc
    subst hc
    decide +kernel

theorem witness_MalformedHexReportsFirstBadCharacter :
    BodyOf Config.defaultWsSet ['3', 'z'] ['3', 'z'] ∧ (['3', 'z'][1]? = some 'z' ∧ digit 'z' = none) :=
  ⟨witness_BodyOf.2, by decide +kernel⟩

theorem witness_HexDigitsPairIntoBytes :
    BodyOf Config.defaultWsSet [' ', '0', 'x', '3', '0', ' '] ['3', '0'] ∧ ∀ c ∈ ['3', '0'], (digit c).isSome = true :=
  ⟨witness_BodyOf.1, by simp [digit, hexTable, List.lookup]⟩

theorem witness_PrefixedAndPlainAgree :
    '0' ∉ State.reset.wsSet ∧ 'x' ∉ State.reset.wsSet ∧ (∀ c, ['3', '0'].head? = some c → c ∉ State.reset.wsSet) ∧
    (∀ c, ['3', '0'].getLast? = some c → c ∉ State.reset.wsSet) ∧ ∀ u, ['3', '0'] ≠ '0' :: 'x' :: u := by
  refine ⟨by decide +kernel, by decide +kernel, ?_, ?_, by simp⟩
  all_goals
    intro c hc
    injection hc with hc
    subst hc
    decide +kernel

/-- Malformed input, and input that gives bytes. -/
theorem witness_DecodeHexRule :
    (facing .payload (.decodeHex .strict (some ['z', 'z']))).pending = .decodeHex .strict (some ['z', 'z']) :: [] ∧
    hex2b (facing .payload (.decodeHex .strict (some ['z', 'z']))).wsSet (some ['z', 'z']) = .error 0 ∧
    hex2b (facing .payload (.decodeHex .strict (some ['0', '0']))).wsSet (some ['0', '0']) = .ok [0x00] := by
  decide +kernel

theorem witness_PermissivePolicyRefused :
    (facing .payload (.decodeHex .permissive none)).pending = .decodeHex .permissive none :: [] := by
  decide

/-- The invariant in both phases: just after reset, and after a transaction. -/
theorem witness_Inv : (facing .payload .readRes).Inv ∧ (after .noneUnrecognized .readRes).Inv :=
  ⟨⟨rfl, rfl, rfl, rfl⟩, ⟨rfl, ⟨1, rfl, rfl⟩, ⟨_, rfl⟩, rfl⟩⟩

theorem witness_StepKeepsInvariant :
    (after .noneUnrecognized (.request w1)).Inv ∧ ∃ t, step (after .noneUnrecognized (.request w1)) = .next t :=
  ⟨⟨rfl, ⟨1, rfl, rfl⟩, ⟨_, rfl⟩, rfl⟩, ⟨_, rfl⟩⟩

/-- States that stop: both of the host's reads, also where `PHASE` is `DONE` and `RES` has no value, and the permissive policy. -/
theorem witness_OnlyHostReadsFault :
    faultOf (step (facing .payload .readRes)) = some .readBeforeDecode ∧
    faultOf (step { after .noneEmpty .readRes with res := none }) = some .readBeforeDecode ∧
    faultOf (step (after .noneUnrecognized (.readField .latRaw))) = some .noRecordField ∧
    refusalOf (step (facing .payload (.decodeHex .permissive none))) = some .permissiveHexPolicy := by
  decide

theorem witness_DoneMeansLatestOutcome :
    (after .noneUnrecognized .readRes).Inv ∧ (after .noneUnrecognized .readRes).phase = .done ∧
    (after .noneUnrecognized .readRes).Latched [3#8] :=
  ⟨witness_Inv.2, by decide, by decide⟩

/-- Two instances beside different neighbours. -/
theorem witness_InstancesAreIndependent :
    [facing .literal (.request [3]), State.reset][0]? = some (facing .literal (.request [3])) ∧
    [facing .literal (.request [3])][0]? = some (facing .literal (.request [3])) ∧
    ∃ later, stepInstance [facing .literal (.request [3]), State.reset] 0 = .next later :=
  ⟨rfl, rfl, ⟨_, rfl⟩⟩

end Sys2Proof.Tests
end

section
/-! PROOFS. The statements of 00_scope.md: a saturating length register (R12) and the permissive hex policy (R13). -/

namespace Sys2Proof.Proofs

open Sys2Proof Sys2Proof.Machine Sys2Proof.Reference

/-! ### The step -/

/-- A step performs the first pending interaction, which is then no longer pending (R39). -/
theorem step_of_pending {s : State} {op : HostOp} {rest : List HostOp} (hp : s.pending = op :: rest) :
    step s = interact { s with pending := rest } op := by
  simp only [step, interactNext, hp]

/-- Settles O41: the step is the pending DECODE_HEX, and its permissive arm is the refusal (R13). -/
theorem permissivePolicyRefused : Obligations.PermissivePolicyRefused := by
  intro s rest input hp
  rw [step_of_pending hp]
  rfl

/-! ### Lengths that no layout can tell apart

Every operation compares `PLEN` with numbers up to the buffer's depth of 12 only (R58, R82). So two lengths that
agree on each of those comparisons, such as a length and its saturation at 15 or more, give the same outcome. -/

/-- The same buffer and strap, with latched lengths `len` and `len'` on which every comparison with a number up to the
buffer's depth agrees. -/
structure SameUpToDepth (s u : State) (len len' : Nat) : Prop where
  plen_left : s.plen = some len
  plen_right : u.plen = some len'
  pbuf : s.pbuf = u.pbuf
  mode : s.dlDataMode = u.dlDataMode
  le_iff : ∀ k ≤ Config.pbufDepth, (k ≤ len ↔ k ≤ len')

/-- A read of consecutive bytes looks at the buffer alone. -/
theorem readLE_eq_of_pbuf_eq {s u : State} (h : s.pbuf = u.pbuf) (n : Nat) : ∀ a, s.readLE a n = u.readLE a n := by
  induction n with
  | zero => intros; rfl
  | succ n ih => intro a; simp only [State.readLE, State.storedByte, h, ih]

/-- The minimum length of every format is at most the buffer's depth (R11, R82). -/
theorem minLength_le_depth (mode : DlDataMode) (i : Instr) : minLength mode i ≤ Config.pbufDepth := by
  cases mode <;> cases i <;> decide

/-- The `RES`, `PHASE` or stop a parse ends in is decided by what the parser gave, not by the state (R131). -/
theorem sameOutcome_finish (s u : State) (x : Except Stop Result) : SameOutcome (s.finish x) (u.finish x) := by
  match x with
  | .ok _ => exact ⟨rfl, rfl⟩
  | .error (.fault _) => exact rfl
  | .error (.refused _) => exact rfl

namespace SameUpToDepth

variable {s u : State} {len len' : Nat} (h : SameUpToDepth s u len len')
include h

/-- Within the buffer's depth, MemRead answers or faults alike (R53). -/
theorem memRead {a : Nat} {w : Width} (hd : a + w.bytes ≤ Config.pbufDepth) : s.memRead a w = u.memRead a w := by
  by_cases hin : a + w.bytes ≤ len
  · rw [State.memRead_inside h.plen_left hin, State.memRead_inside h.plen_right ((h.le_iff _ hd).mp hin),
      readLE_eq_of_pbuf_eq h.pbuf]
  · have hout : ¬a + w.bytes ≤ len' := fun hin' => hin ((h.le_iff _ hd).mpr hin')
    rw [State.memRead_bounds h.plen_left (Nat.lt_of_not_le hin),
      State.memRead_bounds h.plen_right (Nat.lt_of_not_le hout)]

theorem extract {e : Extract} (hd : e.reach ≤ Config.pbufDepth) : s.extract e = u.extract e := by
  cases e with
  | bit i => simp only [State.extract, State.bit, State.byte, h.memRead (a := 0) (w := .w8) hd]
  | byte o => simp only [State.extract, State.byte, h.memRead (a := o) (w := .w8) hd]
  | shr1 o => simp only [State.extract, State.shr1, State.byte, h.memRead (a := o) (w := .w8) hd]
  | le16bits o bo bl => simp only [State.extract, State.le16bits, State.le16, h.memRead (a := o) (w := .w16) hd]
  | le32 o => simp only [State.extract, State.le32, h.memRead (a := o) (w := .w32) hd]

theorem field (w : Nat) {f : FieldSpec} (hd : f.src.reach ≤ Config.pbufDepth) : s.field w f = u.field w f := by
  simp only [State.field, h.extract hd]

theorem parsePositional : parsePositional s = parsePositional u := by
  simp (disch := decide) only [Machine.parsePositional, h.field]

theorem parseDlData : parseDlData s = parseDlData u := by
  simp (disch := decide) only [Machine.parseDlData, h.field, h.mode]

theorem parseDownlinkAck : parseDownlinkAck s = parseDownlinkAck u := by
  simp (disch := decide) only [Machine.parseDownlinkAck, h.field, h.parseDlData]

theorem parseDeviceStats : parseDeviceStats s = parseDeviceStats u := by
  simp (disch := decide) only [Machine.parseDeviceStats, h.field]

/-- The length check and the parse after it. -/
theorem withLength {need : Nat} {parse : State → Except Stop Result} (hd : need ≤ Config.pbufDepth)
    (hp : parse s = parse u) : SameOutcome (s.withLength need parse) (u.withLength need parse) := by
  by_cases hge : need ≤ len
  · rw [State.withLength_enough _ h.plen_left hge, State.withLength_enough _ h.plen_right ((h.le_iff _ hd).mp hge), hp]
    exact sameOutcome_finish s u _
  · have hlt : ¬need ≤ len' := fun hge' => hge ((h.le_iff _ hd).mpr hge')
    rw [State.withLength_short _ h.plen_left (Nat.lt_of_not_le hge),
      State.withLength_short _ h.plen_right (Nat.lt_of_not_le hlt)]
    exact ⟨rfl, rfl⟩

/-- No operation tells the two lengths apart. -/
theorem exec (i : Instr) : SameOutcome (Machine.exec i s) (Machine.exec i u) := by
  cases i with
  | positional =>
    simp only [Machine.exec, execPositional, ← h.mode]
    exact h.withLength (minLength_le_depth _ _) h.parsePositional
  | downlinkAck =>
    simp only [Machine.exec, execDownlinkAck, ← h.mode]
    exact h.withLength (minLength_le_depth _ _) h.parseDownlinkAck
  | deviceStats =>
    simp only [Machine.exec, execDeviceStats, ← h.mode]
    exact h.withLength (minLength_le_depth _ _) h.parseDeviceStats
  | _ => exact ⟨rfl, rfl⟩

end SameUpToDepth

/-- A register of four bits or more saturates at no less than the buffer's depth (R12). -/
theorem depth_le_saturation {w : Nat} (hw : 4 ≤ w) : Config.pbufDepth ≤ 2 ^ w - 1 := by
  have hpow : 2 ^ 4 ≤ 2 ^ w := Nat.pow_le_pow_right (by decide) hw
  simp only [Config.pbufDepth]
  omega

/-- Settles O15: a length and its saturation agree on every comparison up to the buffer's depth. -/
theorem saturatingLengthIsExact : Obligations.SaturatingLengthIsExact := by
  intro i s len w hl hw
  have hsat := depth_le_saturation hw
  have same : SameUpToDepth s { s with plen := some (min len (2 ^ w - 1)) } len (min len (2 ^ w - 1)) :=
    { plen_left := hl, plen_right := rfl, pbuf := rfl, mode := rfl, le_iff := fun k hk => by omega }
  exact same.exec i

end Sys2Proof.Proofs
end

section
/-! PROOFS. The statements of 10_state.md: what a transaction, a host's read and a reset do to the state, what none of
them touches, and the invariant that ties `RES` to the latched payload. -/

namespace Sys2Proof.Proofs

open Sys2Proof Sys2Proof.Machine Sys2Proof.Reference

/-! ### The invariant -/

/-- The invariant while `PHASE` is `IDLE` (R32, R40). -/
theorem inv_iff_of_idle {s : State} (h : s.phase = .idle) : s.Inv ↔ s.pbuf.wf = true ∧ s.Fresh := by
  simp only [State.Inv, h]

/-- The invariant while `PHASE` is `DONE` (R32, R33). -/
theorem inv_iff_of_done {s : State} (h : s.phase = .done) : s.Inv ↔ s.pbuf.wf = true ∧ s.Settled := by
  simp only [State.Inv, h]

/-- Ending a transaction again with the outcome `RES` already holds changes nothing. -/
theorem endTransaction_eq_self {s : State} {r : Result} (hr : s.res = some r) (hd : s.phase = .done) :
    s.endTransaction r = s := by
  simp only [State.endTransaction, ← hr, ← hd]

/-- On every state of the same payload a transaction ends with the same outcome (R33). -/
theorem transaction_of_samePayload {s u : State} {r : Result} (same : SamePayload s u)
    (h : transaction s = .next (s.endTransaction r)) : transaction u = .next (u.endTransaction r) := by
  obtain ⟨r', hs, hu⟩ := same.transaction h
  have hrr : some r = some r' := congrArg State.res hs
  rwa [Option.some.inj hrr]

/-- The invariant looks at the payload, the strap, `RES` and `PHASE` alone, not at the host's side. -/
theorem inv_of_samePayload {s u : State} (same : SamePayload s u) (hres : s.res = u.res) (hphase : s.phase = u.phase)
    (h : s.Inv) : u.Inv := by
  cases hu : u.phase with
  | idle =>
    obtain ⟨hwf, hlen, hbuf, hr⟩ := (inv_iff_of_idle (hphase.trans hu)).mp h
    exact (inv_iff_of_idle hu).mpr
      ⟨same.pbuf ▸ hwf, same.plen.symm.trans hlen, same.pbuf.symm.trans hbuf, hres.symm.trans hr⟩
  | done =>
    obtain ⟨hwf, ⟨len, hlen, hcov⟩, ⟨r, hr⟩, ht⟩ := (inv_iff_of_done (hphase.trans hu)).mp h
    have hr' : u.res = some r := hres.symm.trans hr
    have ht' : transaction u = .next (u.endTransaction r) :=
      transaction_of_samePayload same (by rw [ht, endTransaction_eq_self hr (hphase.trans hu)])
    rw [endTransaction_eq_self hr' hu] at ht'
    refine (inv_iff_of_done hu).mpr ⟨same.pbuf ▸ hwf, ⟨len, same.plen.symm.trans hlen, ?_⟩, ⟨r, hr'⟩, ht'⟩
    rwa [State.BufferCovers, ← same.pbuf]

/-- Everything a request can do, with the transaction that did it (R39). -/
theorem request_transaction {s t : State} {p : List Byte} (h : request s p = .next t) :
    ∃ r, transaction (s.latch p) = .next ((s.latch p).endTransaction r) ∧
      t = ((s.latch p).endTransaction r).respond := by
  obtain ⟨u, hu, rfl⟩ := respondAfter_next h
  obtain ⟨r, rfl⟩ := transaction_next hu
  exact ⟨r, hu, rfl⟩

/-- A request settles the state on its own payload, whatever the state was. -/
theorem inv_of_request {s t : State} {p : List Byte} (h : request s p = .next t) : t.Inv := by
  obtain ⟨r, ht, rfl⟩ := request_transaction h
  have again := transaction_of_samePayload
    (⟨rfl, rfl, rfl⟩ : SamePayload (s.latch p) ((s.latch p).endTransaction r).respond) ht
  rw [endTransaction_eq_self (s := ((s.latch p).endTransaction r).respond) rfl rfl] at again
  exact (inv_iff_of_done rfl).mpr
    ⟨Memory.load_wf p, ⟨p.length, rfl, (s.latched_latch p).covers⟩, ⟨r, rfl⟩, again⟩

/-- A reset meets the invariant, whatever the state was (R195). -/
theorem inv_of_applyReset (s : State) : s.applyReset.Inv :=
  (inv_iff_of_idle rfl).mpr ⟨Memory.nil_wf, rfl, rfl, rfl⟩

/-- Settles O44: a step does nothing, resets, answers the host or settles the state on a new payload. -/
theorem stepKeepsInvariant : Obligations.StepKeepsInvariant := by
  intro s t hinv hstep
  obtain ⟨-, rfl⟩ | ⟨op, rest, -, ⟨-, rfl⟩ | ⟨y, rfl⟩ | ⟨p, -, hreq⟩⟩ := step_cases hstep
  · exact hinv
  · exact inv_of_applyReset _
  · exact inv_of_samePayload (s := s) ⟨rfl, rfl, rfl⟩ rfl rfl hinv
  · exact inv_of_request hreq

/-- Settles O43: after reset nothing holds a value (R40). -/
theorem invariantAtReset : Obligations.InvariantAtReset :=
  have inv_resetWith (mode : DlDataMode) (ws : List Char) : (State.resetWith mode ws).Inv :=
    inv_of_applyReset (State.resetWith mode ws)
  ⟨inv_resetWith _ _, inv_resetWith⟩

/-! ### What a step changes and what it leaves -/

/-- Settles O12: an operation's only act on the state is the end of the transaction. -/
theorem operationFrame : Obligations.OperationFrame := by
  intro i s t h
  obtain ⟨r, rfl⟩ := exec_next h
  exact ⟨⟨r, rfl⟩, rfl, rfl, fun _ => rfl, rfl, rfl, rfl, rfl, rfl⟩

/-- Settles O33: of everything a step can do, only a reset and a request write `PLEN` or `PBUF`. -/
theorem onlyRequestsWritePayload : Obligations.OnlyRequestsWritePayload := by
  intro s t hstep hchange
  obtain ⟨-, rfl⟩ | ⟨op, rest, hp, ⟨hop, -⟩ | ⟨y, rfl⟩ | ⟨p, hop, -⟩⟩ := step_cases hstep
  · simp at hchange
  · exact ⟨op, rest, hp, .inl hop⟩
  · simp at hchange
  · exact ⟨op, rest, hp, .inr (hop.imp_left fun h => ⟨p, h⟩)⟩

/-- Settles O34: nothing a step can do writes the straps (R36). -/
theorem strapsNeverChange : Obligations.StrapsNeverChange := by
  intro s t hstep
  obtain ⟨-, rfl⟩ | ⟨op, rest, -, ⟨-, rfl⟩ | ⟨y, rfl⟩ | ⟨p, -, hreq⟩⟩ := step_cases hstep
  · exact ⟨rfl, rfl⟩
  · exact ⟨rfl, rfl⟩
  · exact ⟨rfl, rfl⟩
  · obtain ⟨r, rfl⟩ := request_next hreq
    exact ⟨rfl, rfl⟩

/-- Settles O35: with nothing pending the step has no interaction to perform. -/
theorem noInteractionNoChange : Obligations.NoInteractionNoChange := by
  intro s hp
  simp only [step, interactNext, hp]

/-- Settles O31: a reset writes R40's values, and no buffer index then holds one. -/
theorem resetLeavesNoValues : Obligations.ResetLeavesNoValues := by
  refine ⟨⟨rfl, rfl, rfl, fun _ => rfl, rfl⟩, fun s rest hp => ?_⟩
  rw [step_of_pending hp]
  exact ⟨_, rfl, rfl, rfl, rfl, fun _ => rfl, rfl, rfl, rfl⟩

/-! ### The decoded operation -/

/-- Settles O1: the step is the pending REQUEST, whose transaction is the operation its payload decodes to. -/
theorem stepRunsDecodedOperation : Obligations.StepRunsDecodedOperation := by
  intro s rest p i hp hdec _
  rw [step_of_pending hp]
  show respondAfter (transaction _) = _
  rw [transaction_latch _ p hdec]

/-- Settles O11: the length check of each record operation comes to the tag's read, which no payload answers. -/
theorem noLatchedPayloadStops : Obligations.NoLatchedPayloadStops := by
  intro i hi s hl
  simp only [List.mem_cons, List.not_mem_nil, or_false] at hi
  obtain rfl | rfl | rfl := hi
  · exact State.withLength_unlatched _ parsePositional hl
  · exact State.withLength_unlatched _ parseDownlinkAck hl
  · exact State.withLength_unlatched _ parseDeviceStats hl

/-! ### The host's reads -/

/-- Settles O28: READ RES answers what the host's view of `RES` gives (R41). -/
theorem readResRule : Obligations.ReadResRule := by
  intro s rest hp
  rw [step_of_pending hp]
  constructor
  · intro hidle
    simp only [interact, readRes, State.hostRes_idle (s := { s with pending := rest }) hidle]
  · intro r hdone hr
    simp only [interact, readRes, State.hostRes_done (s := { s with pending := rest }) hdone hr]

/-- Settles O30: the codes by R30's table, and a failed DECODE_HEX answers code 3 without touching `RES`. -/
theorem kindCodes : Obligations.KindCodes := by
  refine ⟨rfl, rfl, rfl, rfl, rfl, rfl, rfl, fun k => by cases k <;> decide,
    fun r => by cases r <;> simp only [Result.kind] <;> decide, fun s rest input j hp hhex => ?_⟩
  rw [step_of_pending hp]
  simp only [interact, decodeHex, hhex]
  exact ⟨_, rfl, rfl, rfl, rfl⟩

/-- A record field can be read out of a value of `RES` exactly where its kind is the one the field belongs to (R31). -/
theorem get_isSome_iff {f : ResField} (hf : f ≠ .kind) (r : Result) :
    (r.get f).isSome = true ↔ fieldKind f = some r.kind := by
  cases r with
  | noneEmpty | noneUnrecognized | errTruncated => cases f <;> simp_all [Result.get, fieldKind, Result.kind]
  | positional p => cases f <;> simp_all [Result.get, PositionalRecord.get, fieldKind, Result.kind]
  | downlinkAck d => cases f <;> simp_all [Result.get, DownlinkAckRecord.get, fieldKind, Result.kind]
  | deviceStats d => cases f <;> simp_all [Result.get, DeviceStatsRecord.get, fieldKind, Result.kind]

/-- The number a record field reads as is the one the record holds under that name (R31). -/
theorem mem_recordFields_of_get {f : ResField} (hf : f ≠ .kind) {r : Result} {v : Int} (h : r.get f = some v) :
    (f, v) ∈ recordFields r := by
  cases r with
  | noneEmpty | noneUnrecognized | errTruncated => cases f <;> simp_all [Result.get]
  | positional p => cases f <;> simp_all [Result.get, PositionalRecord.get, recordFields]
  | downlinkAck d => cases f <;> simp_all [Result.get, DownlinkAckRecord.get, recordFields]
  | deviceStats d => cases f <;> simp_all [Result.get, DeviceStatsRecord.get, recordFields]

/-- A field read while `PHASE` is `DONE`: the value under that name, or NoRecordField where there is none (R180). -/
theorem readField_done {s : State} {r : Result} (hd : s.phase = .done) (hr : s.res = some r) (f : ResField) :
    (∀ v, r.get f = some v → readField s f = .next { s with reply := some (.field v) }) ∧
      (r.get f = none → readField s f = .fault .noRecordField) := by
  constructor
  · intro v hv
    simp only [readField, State.hostRes_done hd hr, hv]
  · intro hnone
    simp only [readField, State.hostRes_done hd hr, hnone]

/-- Settles O29: the read answers `Result.get`, which has a value exactly under the field's own kind. -/
theorem fieldReadRule : Obligations.FieldReadRule := by
  intro s rest f hp
  rw [step_of_pending hp]
  refine ⟨fun hidle => ?_, fun r hdone hr => ?_⟩
  · simp only [interact, readField, State.hostRes_idle (s := { s with pending := rest }) hidle]
  obtain ⟨hvalue, hfault⟩ := readField_done (s := { s with pending := rest }) hdone hr f
  refine ⟨?_, fun hne hkind => ?_, fun hne hkind => ?_⟩
  · rintro rfl
    exact hvalue _ rfl
  · obtain ⟨v, hv⟩ := Option.isSome_iff_exists.mp ((get_isSome_iff hne r).mpr hkind)
    exact ⟨v, mem_recordFields_of_get hne hv, hvalue v hv⟩
  · exact hfault (Option.not_isSome_iff_eq_none.mp fun hsome => hkind ((get_isSome_iff hne r).mp hsome))

/-! ### Payload bits

The record layouts are read through little-endian windows of a few bytes; the statements name payload bits by their
number (R17). Both are the same number, divided and cut. -/

/-- The payload's number is its first `n` bytes' and, above them, the rest's. -/
theorem payloadNumber_split (n : Nat) :
    ∀ p : List Byte, payloadNumber p = leNumber (p.take n) + 2 ^ (8 * n) * payloadNumber (p.drop n) := by
  induction n with
  | zero => simp [leNumber]
  | succ n ih =>
    intro p
    cases p with
    | nil => simp [payloadNumber, leNumber]
    | cons b p =>
      have hb : payloadNumber (b :: p) = b.toNat + 256 * payloadNumber p := rfl
      rw [hb, ih p, List.take_succ_cons, List.drop_succ_cons, leNumber, Nat.mul_succ, Nat.pow_add]
      ring

/-- `n` bytes spell a number of `8 n` bits. -/
theorem leNumber_lt (p : List Byte) : leNumber p < 2 ^ (8 * p.length) := by
  induction p with
  | nil => simp [leNumber]
  | cons b p ih =>
    have hb : b.toNat < 2 ^ 8 := b.isLt
    rw [leNumber, List.length_cons, Nat.mul_succ, Nat.pow_add]
    omega

/-- Bits that lie in the low `n` bits of a number do not depend on what stands above them. -/
theorem add_mul_div_mod_two_pow {n j w : Nat} (x r : Nat) (h : j + w ≤ n) :
    (x + 2 ^ n * r) / 2 ^ j % 2 ^ w = x / 2 ^ j % 2 ^ w := by
  have hdvd : 2 ^ j * 2 ^ w ∣ 2 ^ n := by rw [← Nat.pow_add]; exact Nat.pow_dvd_pow 2 h
  have hmod : (x + 2 ^ n * r) % (2 ^ j * 2 ^ w) = x % (2 ^ j * 2 ^ w) := by
    rw [Nat.add_mod, Nat.mod_eq_zero_of_dvd (hdvd.mul_right r), Nat.add_zero, Nat.mod_mod]
  rw [← Nat.mod_mul_right_div_self, hmod, Nat.mod_mul_right_div_self]

/-- Payload bits inside the `n` bytes from index `o` on are bits of those bytes' number. -/
theorem payloadBits_window (p : List Byte) (o n : Nat) {j w : Nat} (h : j + w ≤ 8 * n) :
    payloadBits p (8 * o + j) w = leNumber ((p.drop o).take n) / 2 ^ j % 2 ^ w := by
  have hlow : leNumber (p.take o) < 2 ^ (8 * o) :=
    (leNumber_lt _).trans_le (Nat.pow_le_pow_right (by decide) (by simp [List.length_take]))
  have hdrop : payloadNumber p / 2 ^ (8 * o) = payloadNumber (p.drop o) := by
    rw [payloadNumber_split o p, Nat.add_mul_div_left _ _ (Nat.two_pow_pos _), Nat.div_eq_of_lt hlow, Nat.zero_add]
  rw [payloadBits, Nat.pow_add, ← Nat.div_div_eq_div_mul, hdrop, payloadNumber_split n (p.drop o),
    add_mul_div_mod_two_pow _ _ h]

/-- The number of one byte's window (R110). -/
theorem leNumber_window_one {p : List Byte} {o : Nat} (h : o < p.length) :
    leNumber ((p.drop o).take 1) = (p[o]).toNat := by
  rw [List.drop_eq_getElem_cons h]
  rfl

/-- The number of two bytes' window (R111). -/
theorem leNumber_window_two {p : List Byte} {o : Nat} (h : o + 1 < p.length) :
    leNumber ((p.drop o).take 2) = (p[o]).toNat + 256 * (p[o + 1]).toNat := by
  rw [List.drop_eq_getElem_cons (Nat.lt_of_succ_lt h), List.drop_eq_getElem_cons h]
  rfl

/-- Bits of one byte. -/
theorem payloadBits_in_byte {p : List Byte} {o : Nat} (ho : o < p.length) {j w : Nat} (h : j + w ≤ 8) :
    payloadBits p (8 * o + j) w = (p[o]).toNat / 2 ^ j % 2 ^ w := by
  rw [payloadBits_window p o 1 h, leNumber_window_one ho]

/-- Bits of two bytes' window (R112). -/
theorem payloadBits_in_window16 {p : List Byte} {o : Nat} (ho : o + 1 < p.length) {j w : Nat} (h : j + w ≤ 16) :
    payloadBits p (8 * o + j) w = ((p[o]).toNat + 256 * (p[o + 1]).toNat) / 2 ^ j % 2 ^ w := by
  rw [payloadBits_window p o 2 h, leNumber_window_two ho]

/-- The 32 bits of four bytes' window (R114). -/
theorem payloadBits_window32 (p : List Byte) (o : Nat) : payloadBits p (8 * o) 32 = leNumber ((p.drop o).take 4) := by
  have hlt : leNumber ((p.drop o).take 4) < 2 ^ 32 :=
    (leNumber_lt _).trans_le (Nat.pow_le_pow_right (by decide) (by simp only [List.length_take]; omega))
  have h := payloadBits_window p o 4 (j := 0) (w := 32) (by decide)
  rwa [Nat.add_zero, Nat.pow_zero, Nat.div_one, Nat.mod_eq_of_lt hlt] at h

theorem payloadBits_lt (p : List Byte) (lo w : Nat) : payloadBits p lo w < 2 ^ w :=
  Nat.mod_lt _ (Nat.two_pow_pos w)

/-- The tag is the payload's lowest four bits (R70). -/
theorem recordTag_toNat (b : Byte) (p : List Byte) : (recordTag b).toNat = payloadBits (b :: p) 0 4 := by
  have h := payloadBits_in_byte (p := b :: p) (o := 0) (by simp) (j := 0) (w := 4) (by decide)
  simpa [recordTag] using h.symm

/-- The two forms of sext_32 agree (R18). -/
theorem sext32_eq_signed32 (u : Nat) : sext32 u = signed32 u := by
  simp only [sext32, signed32, Nat.testBit_eq_decide_div_mod_eq, decide_eq_true_eq]

/-- A 32-bit pattern holds sext_32 of a 32-bit number exactly (R18). -/
theorem toInt_ofInt_signed32 {u : Nat} (h : u < 2 ^ 32) : (BitVec.ofInt 32 (signed32 u)).toInt = signed32 u := by
  rw [← sext32_eq_signed32, sext32_eq h]
  apply BitVec.toInt_ofInt_eq_self (by decide) <;> split <;> omega

/-! ### Operands as payload bits -/

/-- The lowest payload bit an operand form reads (R17). -/
def lowBit : Extract → Nat
  | .bit i => i
  | .byte o => 8 * o
  | .shr1 o => 8 * o + 1
  | .le16bits o bo _ => 8 * o + bo
  | .le32 o => 8 * o

/-- How many payload bits it reads. -/
def bitCount : Extract → Nat
  | .bit _ => 1
  | .byte _ => 8
  | .shr1 _ => 7
  | .le16bits _ _ bl => bl
  | .le32 _ => 32

/-- The number an operand form stands for in a payload: its bits, signed for LE32 alone (R121). -/
def payloadValue (p : List Byte) (e : Extract) : Int :=
  match e with
  | .le32 _ => signed32 (payloadBits p (lowBit e) (bitCount e))
  | .bit _ | .byte _ | .shr1 _ | .le16bits _ _ _ => payloadBits p (lowBit e) (bitCount e)

/-- The value a payload gives a result field of `w` bits. -/
def fieldValue (w : Nat) (f : FieldSpec) (p : List Byte) : BitVec w := BitVec.ofInt w (f.scale * payloadValue p f.src)

/-- A well-formed operand of a format of `need` bytes whose bits all lie in its window. -/
def readsWithin (need : Nat) (f : FieldSpec) : Bool :=
  fieldWellFormed need f &&
    match f.src with
    | .le16bits _ bo bl => decide (bo + bl ≤ 16)
    | .bit _ | .byte _ | .shr1 _ | .le32 _ => true

/-- The payload `p` is latched, and has and stores the `need` bytes of a format. -/
structure Holds (s : State) (p : List Byte) (need : Nat) : Prop where
  latched : s.Latched p
  enough : need ≤ p.length
  stored : need ≤ Config.pbufDepth

/-- Every operand inside a format reads as its payload bits, scaled (R110-R118). -/
theorem Holds.field_eq {s : State} {p : List Byte} {need : Nat} (h : Holds s p need) (w : Nat) {f : FieldSpec}
    (hf : readsWithin need f = true) : s.field w f = .ok (fieldValue w f p) := by
  obtain ⟨hl, henough, hstored⟩ := h
  obtain ⟨src, k⟩ := f
  simp only [readsWithin, fieldWellFormed, Bool.and_eq_true, decide_eq_true_eq] at hf
  obtain ⟨⟨⟨hwf, -⟩, hreach⟩, hin⟩ := hf
  cases src with
  | bit i =>
    simp only [extractWellFormed, Bool.or_eq_true, beq_iff_eq] at hwf
    simp only [Extract.reach] at hreach
    have hbits := payloadBits_in_byte (p := p) (o := 0) (by omega) (j := i) (w := 1) (by omega)
    rw [Nat.mul_zero, Nat.zero_add, Nat.pow_one] at hbits
    rw [hl.field_bit (by omega) hwf, ← hbits]
    rfl
  | byte o =>
    simp only [Extract.reach] at hreach
    have hbits := payloadBits_in_byte (p := p) (o := o) (by omega) (j := 0) (w := 8) (by decide)
    rw [Nat.add_zero, Nat.pow_zero, Nat.div_one, Nat.mod_eq_of_lt (p[o]).isLt] at hbits
    rw [hl.field_byte (by omega) (by omega), ← hbits]
    rfl
  | shr1 o =>
    simp only [Extract.reach] at hreach
    have hbits := payloadBits_in_byte (p := p) (o := o) (by omega) (j := 1) (w := 7) (by decide)
    have hb : (p[o]).toNat < 2 ^ 8 := (p[o]).isLt
    rw [Nat.pow_one, Nat.mod_eq_of_lt (by omega)] at hbits
    rw [hl.field_shr1 (by omega) (by omega), ← hbits]
    rfl
  | le16bits o bo bl =>
    simp only [extractWellFormed, Bool.and_eq_true, decide_eq_true_eq] at hwf hin
    simp only [Extract.reach] at hreach
    rw [hl.field_le16bits (by omega) (by omega) hwf.1 hwf.2, ← payloadBits_in_window16 (by omega) hin]
    rfl
  | le32 o =>
    simp only [Extract.reach] at hreach
    rw [hl.field_le32 (by omega) (by omega), sext32_eq_signed32, ← payloadBits_window32]
    rfl

/-- An operand form other than LE32 stands for its bits as they are (R121). -/
def isUnsigned : Extract → Bool
  | .le32 _ => false
  | .bit _ | .byte _ | .shr1 _ | .le16bits _ _ _ => true

/-- An unsigned field whose scaled bits a register of `w` bits can hold (R120). -/
def fitsRegister (w : Nat) (f : FieldSpec) : Bool := isUnsigned f.src && decide (f.scale * 2 ^ bitCount f.src ≤ 2 ^ w)

theorem payloadValue_of_isUnsigned (p : List Byte) {e : Extract} (h : isUnsigned e = true) :
    payloadValue p e = (payloadBits p (lowBit e) (bitCount e) : Nat) := by
  cases e with
  | le32 o => cases h
  | bit i | byte o | shr1 o | le16bits o bo bl => rfl

/-- Such a register holds the scaled bits exactly (R120). -/
theorem fieldValue_toNat (p : List Byte) {w : Nat} {f : FieldSpec} (h : fitsRegister w f = true) :
    (fieldValue w f p).toNat = f.scale * payloadBits p (lowBit f.src) (bitCount f.src) := by
  simp only [fitsRegister, Bool.and_eq_true, decide_eq_true_eq] at h
  obtain ⟨hu, hw⟩ := h
  have hlt : f.scale * payloadBits p (lowBit f.src) (bitCount f.src) < 2 ^ w := by
    rcases Nat.eq_zero_or_pos f.scale with hk | hk
    · rw [hk, Nat.zero_mul]
      exact Nat.two_pow_pos w
    · exact (Nat.mul_lt_mul_of_pos_left (payloadBits_lt p _ _) hk).trans_le hw
  rw [fieldValue, payloadValue_of_isUnsigned p hu, ← Nat.cast_mul, BitVec.ofInt_natCast, BitVec.toNat_ofNat,
    Nat.mod_eq_of_lt hlt]

/-- With scale 1 it holds the bits themselves. -/
theorem fieldValue_toNat_unscaled (p : List Byte) {w : Nat} {f : FieldSpec} (hk : f.scale = 1)
    (h : fitsRegister w f = true) : (fieldValue w f p).toNat = payloadBits p (lowBit f.src) (bitCount f.src) := by
  rw [fieldValue_toNat p h, hk, Nat.one_mul]

/-- A coordinate's register holds its signed word exactly (R114). -/
theorem fieldValue_toInt (p : List Byte) (o : Nat) :
    (fieldValue 32 ⟨.le32 o, 1⟩ p).toInt = signed32 (payloadBits p (8 * o) 32) := by
  have hvalue : fieldValue 32 ⟨.le32 o, 1⟩ p = BitVec.ofInt 32 (signed32 (payloadBits p (8 * o) 32)) :=
    congrArg (BitVec.ofInt 32) (Int.one_mul _)
  rw [hvalue, toInt_ofInt_signed32 (payloadBits_lt p (8 * o) 32)]

/-! ### The parsers on a held payload -/

namespace Holds

variable {s : State} {p : List Byte} {need : Nat}

/-- The Positional record by the payload bits of R73. -/
theorem parsePositional (h : Holds s p 12) :
    ∃ r, Machine.parsePositional s = .ok (.positional r) ∧ PositionalOf p r := by
  refine ⟨⟨fieldValue 1 Layout.inTrip p, fieldValue 1 Layout.lastFixFailed p, fieldValue 32 Layout.latRaw p,
    fieldValue 32 Layout.lonRaw p, fieldValue 9 Layout.headingDeg p, fieldValue 8 Layout.speedKmh p,
    fieldValue 13 Layout.battMv p⟩, ?_, ?_⟩
  · simp (disch := decide) only [Machine.parsePositional, h.field_eq]
    rfl
  · exact ⟨fieldValue_toNat_unscaled p rfl (by decide), fieldValue_toNat_unscaled p rfl (by decide),
      fieldValue_toInt p 1, fieldValue_toInt p 5, fieldValue_toNat p (by decide),
      fieldValue_toNat_unscaled p rfl (by decide), fieldValue_toNat p (by decide)⟩

/-- The Device Statistics record by the payload bits of R75. -/
theorem parseDeviceStats (h : Holds s p 12) :
    ∃ r, Machine.parseDeviceStats s = .ok (.deviceStats r) ∧ DeviceStatsOf p r := by
  refine ⟨⟨fieldValue 9 Layout.uptimeWeeks p, fieldValue 16 Layout.txCount p, fieldValue 13 Layout.rxCount p,
    fieldValue 13 Layout.tripCount p, fieldValue 15 Layout.gpsSuccessCount p, fieldValue 13 Layout.gpsFailureCount p,
    fieldValue 9 Layout.avgFixTimeS p, fieldValue 9 Layout.avgFailTimeS p, fieldValue 8 Layout.avgFreshenTimeS p,
    fieldValue 7 Layout.wakeupsPerTrip p⟩, ?_, ?_⟩
  · simp (disch := decide) only [Machine.parseDeviceStats, h.field_eq]
    rfl
  · exact ⟨fieldValue_toNat_unscaled p rfl (by decide), fieldValue_toNat p (by decide), fieldValue_toNat p (by decide),
      fieldValue_toNat_unscaled p rfl (by decide), fieldValue_toNat p (by decide), fieldValue_toNat p (by decide),
      fieldValue_toNat_unscaled p rfl (by decide), fieldValue_toNat_unscaled p rfl (by decide),
      fieldValue_toNat_unscaled p rfl (by decide), fieldValue_toNat_unscaled p rfl (by decide)⟩

/-- `DL_DATA` in either mode (R150): payload bytes 4..11, or the constants 4..11. -/
theorem parseDlData (h : Holds s p (minLength s.dlDataMode .downlinkAck)) :
    ∃ d, Machine.parseDlData s = .ok d ∧
      ∀ k : Fin 8, d[k].toNat = if s.dlDataMode = .payload then payloadBits p (32 + 8 * k) 8 else 4 + k := by
  cases hmode : s.dlDataMode with
  | payload =>
    rw [hmode] at h
    refine ⟨Vector.ofFn fun k : Fin 8 => fieldValue 8 (Layout.dlData k) p, ?_, fun k => ?_⟩
    · simp (disch := decide) only [Machine.parseDlData, hmode, h.field_eq]
      rfl
    · have hbits : 8 * (4 + (k : Nat)) = 32 + 8 * k := by omega
      rw [if_pos rfl, ← hbits, Fin.getElem_fin, Vector.getElem_ofFn]
      exact fieldValue_toNat_unscaled p rfl rfl
  | literal =>
    simp only [Machine.parseDlData, hmode]
    refine ⟨_, rfl, fun k => ?_⟩
    rw [if_neg (by decide)]
    revert k
    decide

/-- The Downlink Acknowledgement record by the payload bits of R74, in either mode. -/
theorem parseDownlinkAck (h : Holds s p (minLength s.dlDataMode .downlinkAck)) :
    ∃ r, Machine.parseDownlinkAck s = .ok (.downlinkAck r) ∧ DownlinkAckOf s.dlDataMode p r := by
  obtain ⟨d, hd, hdata⟩ := h.parseDlData
  have hreads : ∀ f ∈ [Layout.dlAccepted, Layout.fwMajor, Layout.fwMinor],
      readsWithin (minLength s.dlDataMode .downlinkAck) f = true := by
    cases s.dlDataMode <;> decide
  refine ⟨⟨fieldValue 1 Layout.dlAccepted p, fieldValue 8 Layout.fwMajor p, fieldValue 8 Layout.fwMinor p, d⟩, ?_, ?_⟩
  · simp only [Machine.parseDownlinkAck, hd, h.field_eq _ (hreads Layout.dlAccepted (by simp)),
      h.field_eq _ (hreads Layout.fwMajor (by simp)), h.field_eq _ (hreads Layout.fwMinor (by simp))]
    rfl
  · exact ⟨fieldValue_toNat_unscaled p rfl (by decide), fieldValue_toNat_unscaled p rfl (by decide),
      fieldValue_toNat_unscaled p rfl (by decide), hdata⟩

end Holds

/-! ### Every operation on a latched payload -/

/-- The outcome of an operation on a payload: TruncatedPayload below the minimum length, else the record (R128). -/
def OperationOutcome (mode : DlDataMode) (p : List Byte) : Instr → Result → Prop
  | .positional, r =>
    if p.length < minLength mode .positional then r = .errTruncated else ∃ f, r = .positional f ∧ PositionalOf p f
  | .downlinkAck, r =>
    if p.length < minLength mode .downlinkAck then r = .errTruncated
    else ∃ f, r = .downlinkAck f ∧ DownlinkAckOf mode p f
  | .deviceStats, r =>
    if p.length < minLength mode .deviceStats then r = .errTruncated else ∃ f, r = .deviceStats f ∧ DeviceStatsOf p f
  | .unrecognized3, r | .unrecognized4, r | .unrecognized5, r | .unrecognized6, r | .unrecognized7, r
  | .unrecognized8, r | .unrecognized9, r | .unrecognized10, r | .unrecognized11, r | .unrecognized12, r
  | .unrecognized13, r | .unrecognized14, r | .unrecognized15, r => r = .noneUnrecognized

/-- The length check, before a parser that gives a record of its kind on every payload long enough (R128). -/
theorem withLength_latched {ρ : Type} {s : State} {p : List Byte} {need : Nat} {parse : State → Except Stop Result}
    {record : ρ → Result} {Describes : ρ → Prop} (hl : s.Latched p) (hneed : need ≤ Config.pbufDepth)
    (hparse : Holds s p need → ∃ f, parse s = .ok (record f) ∧ Describes f) :
    ∃ r, s.withLength need parse = .next (s.endTransaction r) ∧
      if p.length < need then r = .errTruncated else ∃ f, r = record f ∧ Describes f := by
  by_cases hshort : p.length < need
  · exact ⟨_, State.withLength_short parse hl.1 hshort, by rw [if_pos hshort]⟩
  · have henough : need ≤ p.length := Nat.le_of_not_lt hshort
    obtain ⟨f, hf, hdesc⟩ := hparse ⟨hl, henough, hneed⟩
    refine ⟨record f, ?_, by rw [if_neg hshort]; exact ⟨f, rfl, hdesc⟩⟩
    rw [State.withLength_enough parse hl.1 henough, hf]
    rfl

/-- Every operation ends on a latched payload, with its outcome. -/
theorem exec_latched {s : State} {p : List Byte} (hl : s.Latched p) (i : Instr) :
    ∃ r, exec i s = .next (s.endTransaction r) ∧ OperationOutcome s.dlDataMode p i r := by
  cases i with
  | positional => exact withLength_latched hl (minLength_le_depth _ _) Holds.parsePositional
  | downlinkAck => exact withLength_latched hl (minLength_le_depth _ _) Holds.parseDownlinkAck
  | deviceStats => exact withLength_latched hl (minLength_le_depth _ _) Holds.parseDeviceStats
  | _ => exact ⟨.noneUnrecognized, rfl, rfl⟩

/-- Cells at consecutive addresses are their bytes' cells. -/
theorem eq_cellsFrom_of_addresses (m : Memory) :
    ∀ {a : Nat}, m.map Prod.fst = List.range' a m.length → m = Memory.cellsFrom a (m.map Prod.snd) := by
  induction m with
  | nil => intros; rfl
  | cons c m ih =>
    intro a h
    simp only [List.map_cons, List.length_cons, List.range'_succ, List.cons.injEq] at h
    obtain ⟨hc, hm⟩ := h
    rw [List.map_cons, Memory.cellsFrom, ← ih hm, ← hc]

/-- A buffer that covers a length is the buffer some payload of that length leaves (R27, R39). -/
theorem latched_of_covers {s : State} {len : Nat} (hlen : s.plen = some len) (hcov : s.BufferCovers len) :
    ∃ p, s.Latched p := by
  have hcount : s.pbuf.length = min len Config.pbufDepth := by
    simpa using congrArg List.length hcov
  have hcells := eq_cellsFrom_of_addresses s.pbuf (a := 0) (by rw [hcov, hcount, List.range_eq_range'])
  refine ⟨s.pbuf.map Prod.snd ++ List.replicate (len - Config.pbufDepth) 0, ?_, ?_⟩
  · rw [hlen, List.length_append, List.length_map, List.length_replicate, hcount]
    congr 1
    omega
  · rw [Memory.load, List.take_append, List.take_of_length_le (by rw [List.length_map]; omega), List.length_map, hcount,
      List.take_replicate, show min (Config.pbufDepth - min len Config.pbufDepth) (len - Config.pbufDepth) = 0 by omega,
      List.replicate_zero, List.append_nil]
    exact hcells

/-- Settles O10: such a state is a latched one, and there every operation ends. -/
theorem everyOperationCompletes : Obligations.EveryOperationCompletes := by
  intro i s len hlen hcov
  obtain ⟨p, hl⟩ := latched_of_covers hlen hcov
  obtain ⟨r, hr, -⟩ := exec_latched hl i
  exact ⟨r, hr⟩

/-! ### The transaction on a latched payload -/

/-- Byte 0's tag is the tag of the operation it selects (R79). -/
theorem tag_decodeByte0 (b : Byte) : (decodeByte0 b).tag = recordTag b := by
  have hrows : ∀ n : Fin 16, opcodeMap[n].tag = BitVec.ofFin n := by decide
  exact hrows (recordTag b).toFin

/-- An operation's outcome is the payload's, where the payload's tag is the operation's (R125, R129). -/
theorem outcomeOf_operationOutcome {mode : DlDataMode} {p : List Byte} {i : Instr} {r : Result} (hp : p.length ≠ 0)
    (htag : payloadBits p 0 4 = i.tag.toNat) (h : OperationOutcome mode p i r) : OutcomeOf mode p r := by
  simp only [OutcomeOf, hp, htag]
  cases i with
  | positional => exact h
  | downlinkAck => cases mode <;> exact h
  | deviceStats => exact h
  | _ => exact h

/-- Every transaction on a latched payload ends, with the outcome of its bits and the strap (R33, R125). -/
theorem transaction_latched {s : State} {p : List Byte} (hl : s.Latched p) :
    ∃ r, transaction s = .next (s.endTransaction r) ∧ OutcomeOf s.dlDataMode p r := by
  have same : SamePayload (s.latch p) s := ⟨hl.1.symm, hl.2.symm, rfl⟩
  cases p with
  | nil => exact ⟨.noneEmpty, transaction_of_samePayload same rfl, rfl⟩
  | cons b p =>
    obtain ⟨r, hr, hout⟩ := exec_latched (s.latched_latch (b :: p)) (decodeByte0 b)
    refine ⟨r, transaction_of_samePayload same ((transaction_latch s (b :: p) rfl).trans hr), ?_⟩
    exact outcomeOf_operationOutcome (by simp) (by rw [tag_decodeByte0, recordTag_toNat]) hout

/-- Settles O46: the transaction that would change nothing is the one that gives the payload's outcome. -/
theorem doneMeansLatestOutcome : Obligations.DoneMeansLatestOutcome := by
  intro s p hinv hdone hl
  obtain ⟨-, -, -, hsettled⟩ := (inv_iff_of_done hdone).mp hinv
  obtain ⟨r, hr, hout⟩ := transaction_latched hl
  have hself : s = s.endTransaction r := by simpa using hsettled.symm.trans hr
  exact ⟨r, congrArg State.res hself, hout⟩

/-- A request completes with its payload's outcome, the same from every state under that strap (R33, R39). -/
theorem request_completes (mode : DlDataMode) (p : List Byte) :
    ∃ r, OutcomeOf mode p r ∧
      ∀ s : State, s.dlDataMode = mode → request s p = .next ((s.latch p).endTransaction r).respond := by
  obtain ⟨r, hr, hout⟩ := transaction_latched ((State.resetWith mode []).latched_latch p)
  refine ⟨r, hout, fun s hmode => ?_⟩
  have same : SamePayload ((State.resetWith mode []).latch p) (s.latch p) := ⟨rfl, rfl, hmode.symm⟩
  rw [request, transaction_of_samePayload same hr]
  rfl

/-- Settles O25: both machines' requests complete with the outcome of the one payload and strap. -/
theorem requestIgnoresHistory : Obligations.RequestIgnoresHistory := by
  intro s u rest more p hs hu hmode
  rw [step_of_pending hs, step_of_pending hu]
  obtain ⟨r, -, hreq⟩ := request_completes s.dlDataMode p
  exact ⟨_, _, hreq _ rfl, hreq _ hmode.symm, rfl, rfl, rfl⟩

end Sys2Proof.Proofs
end

section
/-! PROOFS. The statement of 20_memory.md: no step meets a BoundsFault; only the host's own reads fault (R59, R116, R180). -/

namespace Sys2Proof.Proofs

open Sys2Proof Sys2Proof.Machine Sys2Proof.Reference

/-- The stops a step can have: a fault of a host's read of what holds no value, or the permissive policy's refusal. -/
def StopsOnlyForHost (x : Host.Outcome State Fault Refusal) : Prop :=
  (∀ f, x = .fault f → f.isHostRead = true) ∧ ∀ r, x = .refused r → r = .permissiveHexPolicy

theorem stopsOnlyForHost_next (t : State) : StopsOnlyForHost (.next t) :=
  ⟨nofun, nofun⟩

theorem stopsOnlyForHost_fault {f : Fault} (hf : f.isHostRead = true) : StopsOnlyForHost (.fault f) :=
  ⟨fun _ h => by injection h with h; exact h ▸ hf, nofun⟩

theorem stopsOnlyForHost_permissive : StopsOnlyForHost (.refused .permissiveHexPolicy) :=
  ⟨nofun, fun _ h => by injection h with h; exact h.symm⟩

/-- A request never stops: it latches its payload first, so every index its transaction reads is there (R58, R59). -/
theorem stopsOnlyForHost_request (s : State) (p : List Byte) : StopsOnlyForHost (request s p) := by
  obtain ⟨r, -, hreq⟩ := request_completes s.dlDataMode p
  rw [hreq s rfl]
  exact stopsOnlyForHost_next _

theorem stopsOnlyForHost_decodeHex (s : State) (policy : HexPolicy) (input : Option (List Char)) :
    StopsOnlyForHost (decodeHex s policy input) := by
  cases policy with
  | permissive => exact stopsOnlyForHost_permissive
  | strict =>
    cases hhex : hex2b s.wsSet input with
    | error j =>
      simp only [decodeHex, hhex]
      exact stopsOnlyForHost_next _
    | ok p =>
      simp only [decodeHex, hhex]
      exact stopsOnlyForHost_request s p

theorem stopsOnlyForHost_readRes (s : State) : StopsOnlyForHost (readRes s) := by
  cases hres : s.hostRes with
  | error f =>
    simp only [readRes, hres, State.hostRes_error hres]
    exact stopsOnlyForHost_fault rfl
  | ok r =>
    simp only [readRes, hres]
    exact stopsOnlyForHost_next _

theorem stopsOnlyForHost_readField (s : State) (field : ResField) : StopsOnlyForHost (readField s field) := by
  cases hres : s.hostRes with
  | error f =>
    simp only [readField, hres, State.hostRes_error hres]
    exact stopsOnlyForHost_fault rfl
  | ok r =>
    cases hget : r.get field with
    | some v =>
      simp only [readField, hres, hget]
      exact stopsOnlyForHost_next _
    | none =>
      simp only [readField, hres, hget]
      exact stopsOnlyForHost_fault rfl

theorem stopsOnlyForHost_interact (s : State) (op : HostOp) : StopsOnlyForHost (interact s op) := by
  cases op with
  | request p => exact stopsOnlyForHost_request s p
  | decodeHex policy input => exact stopsOnlyForHost_decodeHex s policy input
  | readRes => exact stopsOnlyForHost_readRes s
  | readField field => exact stopsOnlyForHost_readField s field
  | reset => exact stopsOnlyForHost_next _

/-- Settles O45: a step is one interaction or none, and each kind of interaction stops only so. -/
theorem onlyHostReadsFault : Obligations.OnlyHostReadsFault := by
  intro s
  show StopsOnlyForHost (step s)
  cases hp : s.pending with
  | nil =>
    rw [noInteractionNoChange s hp]
    exact stopsOnlyForHost_next s
  | cons op rest =>
    rw [step_of_pending hp]
    exact stopsOnlyForHost_interact _ op

end Sys2Proof.Proofs
end

section
/-! PROOFS. The statements of 30_encoding.md: the tag alone selects the operation (R79), the record formats' encoders
are read back (R73-R76), and no outcome depends on an unused bit (R81). -/

namespace Sys2Proof.Proofs

open Sys2Proof Sys2Proof.Machine Sys2Proof.Reference

/-! ### The opcode map -/

/-- The opcode map holds each operation at its own tag (R79). -/
theorem opcodeMap_tag (i : Instr) : opcodeMap[i.tag.toNat]'i.tag.isLt = i := by
  cases i <;> rfl

/-- Byte 0 selects the operation whose tag its low nibble is (R79). -/
theorem decodeByte0_eq_iff (b : Byte) (i : Instr) : decodeByte0 b = i ↔ recordTag b = i.tag := by
  constructor
  · rintro rfl
    exact (tag_decodeByte0 b).symm
  · intro h
    simp only [decodeByte0, h, opcodeMap_tag]

/-- A payload of at least one byte decodes to the operation its lowest four bits name (R70, R79). -/
theorem decode_eq_ok_iff {p : List Byte} (hp : p ≠ []) (i : Instr) :
    decode p = .ok i ↔ payloadBits p 0 4 = i.tag.toNat := by
  obtain ⟨b, t, rfl⟩ := List.exists_cons_of_ne_nil hp
  rw [← recordTag_toNat, BitVec.toNat_inj, ← decodeByte0_eq_iff, decode, Except.ok.injEq]

/-- The mask 0x0F leaves the tag (R70). -/
theorem toNat_and_mask (b : Byte) : (b &&& 0x0F#8).toNat = (recordTag b).toNat := by
  rw [recordTag, BitVec.extractLsb'_toNat, Nat.shiftRight_zero, BitVec.toNat_and]
  exact Nat.and_two_pow_sub_one_eq_mod b.toNat 4

/-- Each row of the opcode map pairs an operation with its own tag (R79). -/
theorem tag_of_mem_opcodeRows {n : Nat} {i : Instr} (h : (n, i) ∈ opcodeRows) : i.tag.toNat = n := by
  have hrows : ∀ row ∈ opcodeRows, row.2.tag.toNat = row.1 := by decide
  exact hrows (n, i) h

/-- Settles O4: the masked byte 0 is the tag, and the row's operation is the one of that tag. -/
theorem lowNibbleAloneSelects : Obligations.LowNibbleAloneSelects := by
  intro b rest n i hrow
  rw [decode_eq_ok_iff (List.cons_ne_nil b rest), ← recordTag_toNat, toNat_and_mask, tag_of_mem_opcodeRows hrow]

/-- Settles O3: each word's low nibble is its operation's tag; without a byte there is no tag (R126). -/
theorem specWordsDecode : Obligations.SpecWordsDecode := by
  unfold Obligations.SpecWordsDecode
  decide

/-! ### A format's 96 bits and its twelve bytes (R17) -/

/-- The bytes of a number spell its low bits. -/
theorem payloadNumber_bytesOfNat (k : Nat) : ∀ n, payloadNumber (bytesOfNat k n) = n % 2 ^ (8 * k) := by
  induction k with
  | zero => intro n; simp [bytesOfNat, payloadNumber, Nat.mod_one]
  | succ k ih =>
    intro n
    have hcons : payloadNumber (bytesOfNat (k + 1) n) = n % 256 + 256 * payloadNumber (bytesOfNat k (n / 256)) := rfl
    rw [hcons, ih, Nat.mul_succ, Nat.add_comm (8 * k), Nat.pow_add]
    exact (Nat.mod_mul).symm

/-- A payload's number gives its bytes back. -/
theorem bytesOfNat_payloadNumber (p : List Byte) : bytesOfNat p.length (payloadNumber p) = p := by
  induction p with
  | nil => rfl
  | cons b p ih =>
    have hcons : payloadNumber (b :: p) = b.toNat + 256 * payloadNumber p := rfl
    have hb : b.toNat < 256 := b.isLt
    have hhigh : (b.toNat + 256 * payloadNumber p) / 256 = payloadNumber p := by omega
    have hlow : BitVec.ofNat 8 (b.toNat + 256 * payloadNumber p) = b := by
      apply BitVec.eq_of_toNat_eq
      rw [BitVec.toNat_ofNat]
      omega
    rw [hcons, List.length_cons, bytesOfNat, hhigh, hlow, ih]

/-- The `i`-th byte of a number is its bits from 8 i on. -/
theorem bytesOfNat_eq_map (k : Nat) :
    ∀ n, bytesOfNat k n = (List.range k).map fun i => BitVec.ofNat 8 (n >>> (8 * i)) := by
  induction k with
  | zero => intro n; rfl
  | succ k ih =>
    intro n
    have hshift : ∀ i, (n / 256) >>> (8 * i) = n >>> (8 * (i + 1)) := fun i => by
      rw [Nat.mul_succ, Nat.add_comm, Nat.shiftRight_add, Nat.shiftRight_eq_div_pow n 8]
    simp only [bytesOfNat, ih, List.range_succ_eq_map, List.map_cons, List.map_map, hshift]
    rfl

/-- The bytes of a format are those of its number. -/
theorem formatBytes_eq (v : BitVec 96) : formatBytes v = bytesOfNat 12 v.toNat :=
  (bytesOfNat_eq_map 12 v.toNat).symm

theorem length_formatBytes (v : BitVec 96) : (formatBytes v).length = 12 := by
  rw [formatBytes, List.length_map, List.length_range]

theorem payloadNumber_formatBytes (v : BitVec 96) : payloadNumber (formatBytes v) = v.toNat := by
  rw [formatBytes_eq, payloadNumber_bytesOfNat, Nat.mod_eq_of_lt v.isLt]

/-- The first 96 bits of a payload as one word (R17). -/
def payloadWord (p : List Byte) : BitVec 96 := BitVec.ofNat 96 (payloadNumber p)

theorem payloadWord_formatBytes (v : BitVec 96) : payloadWord (formatBytes v) = v := by
  rw [payloadWord, payloadNumber_formatBytes, BitVec.ofNat_toNat, BitVec.setWidth_eq]

/-- A twelve-byte payload is the format of its word. -/
theorem formatBytes_payloadWord {p : List Byte} (h : p.length = 12) : formatBytes (payloadWord p) = p := by
  have hnum := payloadNumber_bytesOfNat p.length (payloadNumber p)
  rw [bytesOfNat_payloadNumber, h] at hnum
  rw [formatBytes_eq, payloadWord, BitVec.toNat_ofNat, ← hnum, ← h, bytesOfNat_payloadNumber]

/-! ### The payload bits of a field as its word -/

/-- The `w` payload bits from number `lo` up, as a word. -/
def payloadSlice (p : List Byte) (lo w : Nat) : BitVec w := (payloadWord p).extractLsb' lo w

theorem payloadSlice_formatBytes (v : BitVec 96) (lo w : Nat) : payloadSlice (formatBytes v) lo w = v.extractLsb' lo w := by
  rw [payloadSlice, payloadWord_formatBytes]

/-- Bits of a number's low `n` bits are bits of the number. -/
theorem mod_two_pow_div_mod_two_pow (x : Nat) {n j w : Nat} (h : j + w ≤ n) :
    x % 2 ^ n / 2 ^ j % 2 ^ w = x / 2 ^ j % 2 ^ w := by
  have hcut := add_mul_div_mod_two_pow (x % 2 ^ n) (x / 2 ^ n) h
  rwa [Nat.mod_add_div, eq_comm] at hcut

/-- Inside the twelve bytes a slice is the number of its payload bits (R17). -/
theorem payloadSlice_toNat (p : List Byte) {lo w : Nat} (h : lo + w ≤ 96) :
    (payloadSlice p lo w).toNat = payloadBits p lo w := by
  rw [payloadSlice, payloadWord, BitVec.extractLsb'_toNat, BitVec.toNat_ofNat, Nat.shiftRight_eq_div_pow,
    mod_two_pow_div_mod_two_pow _ h, payloadBits]

/-- Slices of the same payload bits are the same word. -/
theorem payloadSlice_congr {p q : List Byte} {lo w : Nat} (h : lo + w ≤ 96)
    (hbits : payloadBits p lo w = payloadBits q lo w) : payloadSlice p lo w = payloadSlice q lo w :=
  BitVec.eq_of_toNat_eq (by rw [payloadSlice_toNat p h, payloadSlice_toNat q h, hbits])

/-- The bits of a payload's first bytes are the payload's. -/
theorem payloadSlice_take (p : List Byte) {n lo w : Nat} (h : lo + w ≤ 8 * n) (hw : lo + w ≤ 96) :
    payloadSlice (p.take n) lo w = payloadSlice p lo w := by
  refine payloadSlice_congr hw ?_
  have hfirst := payloadBits_window (p.take n) 0 n h
  rw [Nat.mul_zero, Nat.zero_add, List.drop_zero, List.take_take, Nat.min_self] at hfirst
  have hwhole := payloadBits_window p 0 n h
  rw [Nat.mul_zero, Nat.zero_add, List.drop_zero] at hwhole
  rw [hfirst, hwhole]

/-- The two's-complement reading of a word is sext_32 of its number (R18). -/
theorem signed32_toNat (b : BitVec 32) : signed32 b.toNat = b.toInt := by
  have hlt : b.toNat < 2 ^ 32 := b.isLt
  rw [signed32, BitVec.toInt_eq_toNat_cond]
  split <;> split <;> omega

/-- A register that can hold every scaled value of a field holds this one exactly (R120). -/
theorem toNat_eq_scaled_iff {w n k : Nat} (a : BitVec w) (b : BitVec n) (h : k * 2 ^ n ≤ 2 ^ w) (hk : 0 < k) :
    a.toNat = k * b.toNat ↔ a = BitVec.ofNat w (k * b.toNat) := by
  have hlt : k * b.toNat < 2 ^ w := (Nat.mul_lt_mul_of_pos_left b.isLt hk).trans_le h
  rw [← BitVec.toNat_inj, BitVec.toNat_ofNat, Nat.mod_eq_of_lt hlt]

/-- A format decodes to the operation whose tag its lowest four bits are (R70, R79). -/
theorem decode_formatBytes {v : BitVec 96} {i : Instr} (h : v.extractLsb' 0 4 = i.tag) :
    decode (formatBytes v) = .ok i := by
  have hne : formatBytes v ≠ [] := List.ne_nil_of_length_pos (by rw [length_formatBytes]; decide)
  rw [decode_eq_ok_iff hne, ← payloadSlice_toNat _ (by decide), payloadSlice_formatBytes, h]

/-! ### FMT_POS -/

/-- The raw fields a payload has under `FMT_POS` (R73). -/
def positionalFieldsOf (p : List Byte) : PositionalFields where
  inTrip := payloadSlice p 4 1
  lastFixFailed := payloadSlice p 5 1
  unused := payloadSlice p 6 2
  latitude := payloadSlice p 8 32
  longitude := payloadSlice p 40 32
  heading := payloadSlice p 72 8
  speed := payloadSlice p 80 8
  battery := payloadSlice p 88 8

/-- The record of raw fields, each scaled to its register (R141-R143). -/
def positionalRecord (f : PositionalFields) : PositionalRecord :=
  ⟨f.inTrip, f.lastFixFailed, f.latitude, f.longitude, BitVec.ofNat 9 (2 * f.heading.toNat), f.speed,
    BitVec.ofNat 13 (25 * f.battery.toNat)⟩

theorem positionalFieldsOf_encodePositional (f : PositionalFields) : positionalFieldsOf (encodePositional f) = f := by
  simp only [positionalFieldsOf, encodePositional, payloadSlice_formatBytes]
  simp (disch := decide) only [BitVec.extractLsb'_append_eq_of_le, BitVec.extractLsb'_append_eq_of_add_le,
    Nat.reduceSub, BitVec.extractLsb'_eq_self]

/-- A payload's Positional record is the one of its raw fields (R73, R140). -/
theorem positionalOf_iff (p : List Byte) (r : PositionalRecord) :
    PositionalOf p r ↔ r = positionalRecord (positionalFieldsOf p) := by
  obtain ⟨inTrip, lastFixFailed, latRaw, lonRaw, headingDeg, speedKmh, battMv⟩ := r
  simp (disch := decide) only [PositionalOf, ← payloadSlice_toNat, signed32_toNat, BitVec.toNat_inj,
    BitVec.toInt_inj, toNat_eq_scaled_iff, positionalRecord, positionalFieldsOf, PositionalRecord.mk.injEq]

/-- POSITIONAL gives the record of the payload's raw fields. -/
theorem exec_positional_latched {s : State} {p : List Byte} (hl : s.Latched p) (hlen : 12 ≤ p.length) :
    exec .positional s = .next (s.endTransaction (.positional (positionalRecord (positionalFieldsOf p)))) := by
  obtain ⟨r, hr, hout⟩ := exec_latched hl .positional
  simp only [OperationOutcome, minLength, hlen.not_gt, if_false, positionalOf_iff] at hout
  obtain ⟨f, rfl, rfl⟩ := hout
  exact hr

/-- Settles O20: the encoding's tag is POSITIONAL's, and its raw fields are those laid out. -/
theorem positionalEncodingReadsBack : Obligations.PositionalEncodingReadsBack := by
  intro f s hl
  have hlen : 12 ≤ (encodePositional f).length := (length_formatBytes _).ge
  refine ⟨decode_formatBytes BitVec.extractLsb'_append_eq_right, ?_⟩
  rw [exec_positional_latched hl hlen, positionalFieldsOf_encodePositional, positionalRecord]

/-! ### FMT_STATS -/

/-- The raw fields a payload has under `FMT_STATS` (R75). -/
def deviceStatsFieldsOf (p : List Byte) : DeviceStatsFields where
  uptime := payloadSlice p 4 9
  tx := payloadSlice p 13 11
  rx := payloadSlice p 24 8
  trips := payloadSlice p 32 13
  gpsSuccess := payloadSlice p 45 10
  gpsFailure := payloadSlice p 55 8
  fixTime := payloadSlice p 63 9
  failTime := payloadSlice p 72 9
  freshenTime := payloadSlice p 81 8
  wakeups := payloadSlice p 89 7

/-- The record of raw fields, each scaled to its register (R161-R170). -/
def deviceStatsRecord (f : DeviceStatsFields) : DeviceStatsRecord :=
  ⟨f.uptime, BitVec.ofNat 16 (32 * f.tx.toNat), BitVec.ofNat 13 (32 * f.rx.toNat), f.trips,
    BitVec.ofNat 15 (32 * f.gpsSuccess.toNat), BitVec.ofNat 13 (32 * f.gpsFailure.toNat), f.fixTime, f.failTime,
    f.freshenTime, f.wakeups⟩

theorem deviceStatsFieldsOf_encodeDeviceStats (f : DeviceStatsFields) :
    deviceStatsFieldsOf (encodeDeviceStats f) = f := by
  simp only [deviceStatsFieldsOf, encodeDeviceStats, payloadSlice_formatBytes]
  simp (disch := decide) only [BitVec.extractLsb'_append_eq_of_le, BitVec.extractLsb'_append_eq_of_add_le,
    Nat.reduceSub, BitVec.extractLsb'_eq_self]

/-- The ten slices and the tag, laid side by side, are the payload again (R76). -/
theorem encodeDeviceStats_deviceStatsFieldsOf {p : List Byte} (hlen : p.length = 12)
    (htag : payloadSlice p 0 4 = Instr.deviceStats.tag) : encodeDeviceStats (deviceStatsFieldsOf p) = p := by
  have hword : (deviceStatsFieldsOf p).wakeups ++ (deviceStatsFieldsOf p).freshenTime ++ (deviceStatsFieldsOf p).failTime ++
      (deviceStatsFieldsOf p).fixTime ++ (deviceStatsFieldsOf p).gpsFailure ++ (deviceStatsFieldsOf p).gpsSuccess ++
      (deviceStatsFieldsOf p).trips ++ (deviceStatsFieldsOf p).rx ++ (deviceStatsFieldsOf p).tx ++
      (deviceStatsFieldsOf p).uptime ++ payloadSlice p 0 4 = payloadWord p := by
    simp (disch := rfl) only [deviceStatsFieldsOf, payloadSlice, BitVec.extractLsb'_append_extractLsb'_eq_extractLsb']
    exact BitVec.extractLsb'_eq_self
  rw [encodeDeviceStats, ← htag, hword, formatBytes_payloadWord hlen]

/-- A payload's Device Statistics record is the one of its raw fields (R75, R160). -/
theorem deviceStatsOf_iff (p : List Byte) (r : DeviceStatsRecord) :
    DeviceStatsOf p r ↔ r = deviceStatsRecord (deviceStatsFieldsOf p) := by
  obtain ⟨uptimeWeeks, txCount, rxCount, tripCount, gpsSuccessCount, gpsFailureCount, avgFixTimeS, avgFailTimeS,
    avgFreshenTimeS, wakeupsPerTrip⟩ := r
  simp (disch := decide) only [DeviceStatsOf, ← payloadSlice_toNat, BitVec.toNat_inj, toNat_eq_scaled_iff,
    deviceStatsRecord, deviceStatsFieldsOf, DeviceStatsRecord.mk.injEq]

/-- DEVICE_STATS gives the record of the payload's raw fields. -/
theorem exec_deviceStats_latched {s : State} {p : List Byte} (hl : s.Latched p) (hlen : 12 ≤ p.length) :
    exec .deviceStats s = .next (s.endTransaction (.deviceStats (deviceStatsRecord (deviceStatsFieldsOf p)))) := by
  obtain ⟨r, hr, hout⟩ := exec_latched hl .deviceStats
  simp only [OperationOutcome, minLength, hlen.not_gt, if_false, deviceStatsOf_iff] at hout
  obtain ⟨f, rfl, rfl⟩ := hout
  exact hr

/-- Settles O22: the encoding's tag is DEVICE_STATS's, and its raw fields are those laid out. -/
theorem deviceStatsEncodingReadsBack : Obligations.DeviceStatsEncodingReadsBack := by
  intro f s hl
  have hlen : 12 ≤ (encodeDeviceStats f).length := (length_formatBytes _).ge
  refine ⟨decode_formatBytes BitVec.extractLsb'_append_eq_right, ?_⟩
  rw [exec_deviceStats_latched hl hlen, deviceStatsFieldsOf_encodeDeviceStats, deviceStatsRecord]

/-- Settles O23: reading the raw fields is the encoder's inverse on twelve-byte payloads of tag 2, on both sides. -/
theorem statsFieldsTilePayload : Obligations.StatsFieldsTilePayload := by
  intro p hlen hdec
  have hne : p ≠ [] := List.ne_nil_of_length_pos (by omega)
  have htag : payloadSlice p 0 4 = Instr.deviceStats.tag := by
    rw [decode_eq_ok_iff hne, ← payloadSlice_toNat p (by decide)] at hdec
    exact BitVec.eq_of_toNat_eq hdec
  refine ⟨deviceStatsFieldsOf p, encodeDeviceStats_deviceStatsFieldsOf hlen htag, fun f hf => ?_⟩
  rw [← hf, deviceStatsFieldsOf_encodeDeviceStats]

/-! ### FMT_DLACK -/

/-- The raw fields a payload has under `FMT_DLACK` (R74). -/
def downlinkAckFieldsOf (p : List Byte) : DownlinkAckFields where
  accepted := payloadSlice p 4 1
  unused := payloadSlice p 5 3
  unusedByte := payloadSlice p 8 8
  fwMajor := payloadSlice p 16 8
  fwMinor := payloadSlice p 24 8
  data := Vector.ofFn fun k => payloadSlice p (32 + 8 * k) 8

/-- DownlinkData in either mode (R150). -/
def downlinkData (mode : DlDataMode) (f : DownlinkAckFields) : Vector Byte 8 :=
  match mode with
  | .payload => f.data
  | .literal => #v[4, 5, 6, 7, 8, 9, 10, 11]

/-- The record of raw fields (R150). -/
def downlinkAckRecord (mode : DlDataMode) (f : DownlinkAckFields) : DownlinkAckRecord :=
  ⟨f.accepted, f.fwMajor, f.fwMinor, downlinkData mode f⟩

/-- The eight DownlinkData bytes lie one after another from bit 32 on (R74). -/
theorem payloadSlice_encodeDownlinkAck_data (f : DownlinkAckFields) (k : Fin 8) :
    payloadSlice (encodeDownlinkAck f) (32 + 8 * k) 8 = f.data[k] := by
  rw [encodeDownlinkAck, payloadSlice_formatBytes]
  fin_cases k <;>
    simp (disch := decide) only [BitVec.extractLsb'_append_eq_of_le, BitVec.extractLsb'_append_eq_of_add_le] <;>
    exact BitVec.extractLsb'_eq_self

theorem downlinkAckFieldsOf_encodeDownlinkAck (f : DownlinkAckFields) :
    downlinkAckFieldsOf (encodeDownlinkAck f) = f := by
  have hdata : (Vector.ofFn fun k : Fin 8 => f.data[k]) = f.data := Vector.ofFn_getElem
  simp only [downlinkAckFieldsOf, payloadSlice_encodeDownlinkAck_data, hdata]
  simp only [encodeDownlinkAck, payloadSlice_formatBytes]
  simp (disch := decide) only [BitVec.extractLsb'_append_eq_of_le, BitVec.extractLsb'_append_eq_of_add_le,
    Nat.reduceSub, BitVec.extractLsb'_eq_self]

theorem downlinkData_literal_toNat (f : DownlinkAckFields) : ∀ k : Fin 8, (downlinkData .literal f)[k].toNat = 4 + k := by
  intro k
  fin_cases k <;> rfl

/-- DownlinkData by its bytes' payload bits, or the constants (R150). -/
theorem eq_downlinkData_iff (mode : DlDataMode) (p : List Byte) (d : Vector Byte 8) :
    (∀ k : Fin 8, d[k].toNat = if mode = .payload then payloadBits p (32 + 8 * k) 8 else 4 + k) ↔
      d = downlinkData mode (downlinkAckFieldsOf p) := by
  rw [Vector.ext_iff, Fin.forall_iff]
  refine forall₂_congr fun k hk => ?_
  rw [← BitVec.toNat_inj]
  cases mode with
  | payload =>
    have hslice := payloadSlice_toNat p (lo := 32 + 8 * k) (w := 8) (by omega)
    simp [downlinkData, downlinkAckFieldsOf, hslice]
  | literal =>
    have hconst := downlinkData_literal_toNat (downlinkAckFieldsOf p) ⟨k, hk⟩
    rw [Fin.getElem_fin] at hconst
    simp [hconst]

/-- A payload's Downlink Acknowledgement record is the one of its raw fields (R74, R150). -/
theorem downlinkAckOf_iff (mode : DlDataMode) (p : List Byte) (r : DownlinkAckRecord) :
    DownlinkAckOf mode p r ↔ r = downlinkAckRecord mode (downlinkAckFieldsOf p) := by
  obtain ⟨dlAccepted, fwMajor, fwMinor, dlData⟩ := r
  simp (disch := decide) only [DownlinkAckOf, eq_downlinkData_iff, ← payloadSlice_toNat, BitVec.toNat_inj,
    downlinkAckRecord, DownlinkAckRecord.mk.injEq]
  rfl

/-- DOWNLINK_ACK gives the record of the payload's raw fields. -/
theorem exec_downlinkAck_latched {s : State} {p : List Byte} (hl : s.Latched p)
    (hlen : minLength s.dlDataMode .downlinkAck ≤ p.length) :
    exec .downlinkAck s =
      .next (s.endTransaction (.downlinkAck (downlinkAckRecord s.dlDataMode (downlinkAckFieldsOf p)))) := by
  obtain ⟨r, hr, hout⟩ := exec_latched hl .downlinkAck
  simp only [OperationOutcome, hlen.not_gt, if_false, downlinkAckOf_iff] at hout
  obtain ⟨f, rfl, rfl⟩ := hout
  exact hr

/-- Settles O21: the encoding's tag is DOWNLINK_ACK's, its raw fields are those laid out, and `LITERAL` mode reads none
past the first four bytes. -/
theorem downlinkAckEncodingReadsBack : Obligations.DownlinkAckEncodingReadsBack := by
  intro f s
  have hfields := downlinkAckFieldsOf_encodeDownlinkAck f
  have hlen : (encodeDownlinkAck f).length = 12 := length_formatBytes _
  refine ⟨decode_formatBytes BitVec.extractLsb'_append_eq_right, fun hmode hl => ?_, fun hmode hl => ?_⟩
  · rw [exec_downlinkAck_latched hl (by rw [hmode, hlen]; decide), hmode, hfields]
    rfl
  · have htake : downlinkAckRecord .literal (downlinkAckFieldsOf ((encodeDownlinkAck f).take 4)) =
        downlinkAckRecord .literal (downlinkAckFieldsOf (encodeDownlinkAck f)) := by
      simp (disch := decide) only [downlinkAckRecord, downlinkData, downlinkAckFieldsOf, payloadSlice_take]
    rw [exec_downlinkAck_latched hl (by rw [hmode, List.length_take, hlen]; decide), hmode, htake, hfields]
    rfl

/-! ### The outcome as a function of the payload -/

/-- The outcome of a payload under a strap, computed from its raw fields (R125, R129). -/
def outcome (mode : DlDataMode) (p : List Byte) : Result :=
  if p.length = 0 then .noneEmpty
  else if 3 ≤ payloadBits p 0 4 then .noneUnrecognized
  else if p.length < minimumFor mode (payloadBits p 0 4) then .errTruncated
  else if payloadBits p 0 4 = 0 then .positional (positionalRecord (positionalFieldsOf p))
  else if payloadBits p 0 4 = 1 then .downlinkAck (downlinkAckRecord mode (downlinkAckFieldsOf p))
  else .deviceStats (deviceStatsRecord (deviceStatsFieldsOf p))

/-- A payload has exactly one outcome (R33, R125). -/
theorem outcomeOf_iff (mode : DlDataMode) (p : List Byte) (r : Result) : OutcomeOf mode p r ↔ r = outcome mode p := by
  simp only [OutcomeOf, outcome, positionalOf_iff, downlinkAckOf_iff, deviceStatsOf_iff, exists_eq_right]
  split_ifs <;> rfl

/-- A step with a REQUEST pending completes with its payload's outcome in `RES` (R33, R39). -/
theorem step_request_res {s : State} {rest : List HostOp} {p : List Byte} (hp : s.pending = .request p :: rest) :
    ∃ t, step s = .next t ∧ t.res = some (outcome s.dlDataMode p) := by
  obtain ⟨r, hout, hreq⟩ := request_completes s.dlDataMode p
  rw [step_of_pending hp]
  exact ⟨_, hreq _ rfl, congrArg some ((outcomeOf_iff _ _ _).mp hout)⟩

/-! ### Payloads alike in some bits -/

/-- The number of a window is its first byte's and, above it, the rest's, also past the payload's end. -/
theorem leNumber_window_succ (p : List Byte) (o n : Nat) :
    leNumber ((p.drop o).take (n + 1)) = byteAt p o + 256 * leNumber ((p.drop (o + 1)).take n) := by
  by_cases ho : o < p.length
  · rw [List.drop_eq_getElem_cons ho, List.take_succ_cons, leNumber, byteAt, List.getD_eq_getElem p 0 ho]
  · have hend : p.length ≤ o := Nat.le_of_not_lt ho
    rw [List.drop_eq_nil_of_le hend, List.drop_eq_nil_of_le (hend.trans (Nat.le_succ o)), byteAt,
      List.getD_eq_default p 0 hend]
    simp [leNumber]

/-- Windows of the same bytes have the same number. -/
theorem leNumber_window_congr {p q : List Byte} (n : Nat) :
    ∀ o, (∀ i, o ≤ i → i < o + n → byteAt p i = byteAt q i) →
      leNumber ((p.drop o).take n) = leNumber ((q.drop o).take n) := by
  induction n with
  | zero => intro o _; simp only [List.take_zero]
  | succ n ih =>
    intro o h
    rw [leNumber_window_succ, leNumber_window_succ, h o (by omega) (by omega),
      ih (o + 1) fun i hlo hhi => h i (by omega) (by omega)]

/-- Slices inside the same bytes are the same word. -/
theorem payloadSlice_congr_bytes {p q : List Byte} {lo w : Nat} (o n : Nat) (hlo : 8 * o ≤ lo)
    (hhi : lo + w ≤ 8 * (o + n)) (hw : lo + w ≤ 96) (h : ∀ i, o ≤ i → i < o + n → byteAt p i = byteAt q i) :
    payloadSlice p lo w = payloadSlice q lo w := by
  obtain ⟨j, rfl⟩ := Nat.exists_eq_add_of_le hlo
  refine payloadSlice_congr hw ?_
  rw [payloadBits_window p o n (by omega), payloadBits_window q o n (by omega), leNumber_window_congr n o h]

/-- The low bits of two payloads that agree on their `n` lowest bits agree too. -/
theorem payloadBits_congr_low {p q : List Byte} {n j w : Nat} (h : j + w ≤ n)
    (hbits : payloadBits q 0 n = payloadBits p 0 n) : payloadBits p j w = payloadBits q j w := by
  simp only [payloadBits, Nat.pow_zero, Nat.div_one] at *
  rw [← mod_two_pow_div_mod_two_pow (payloadNumber p) h, ← hbits, mod_two_pow_div_mod_two_pow _ h]

/-! ### Unused bits -/

/-- Tag 0: byte 0 bits 7..6 are in no field of the record (R81). -/
theorem positionalRecord_congr {p q : List Byte} (hlow : payloadBits q 0 6 = payloadBits p 0 6)
    (hbytes : ∀ i, 1 ≤ i → byteAt p i = byteAt q i) :
    positionalRecord (positionalFieldsOf p) = positionalRecord (positionalFieldsOf q) := by
  have hflag : ∀ j, j + 1 ≤ 6 → payloadSlice p j 1 = payloadSlice q j 1 := fun j hj =>
    payloadSlice_congr (by omega) (payloadBits_congr_low hj hlow)
  have hword : ∀ lo w, 8 ≤ lo → lo + w ≤ 96 → payloadSlice p lo w = payloadSlice q lo w := fun lo w hlo hw =>
    payloadSlice_congr_bytes 1 11 hlo hw hw fun i hi _ => hbytes i hi
  simp (disch := decide) only [positionalRecord, positionalFieldsOf, hflag, hword]

/-- Tag 1: byte 0 bits 7..5 and byte 1 are in no field of the record, nor, in `LITERAL` mode, are the bytes from 4 on (R81). -/
theorem downlinkAckRecord_congr {mode : DlDataMode} {p q : List Byte} (hlow : payloadBits q 0 5 = payloadBits p 0 5)
    (hbytes : ∀ i, 2 ≤ i → (i < 4 ∨ mode = .payload) → byteAt p i = byteAt q i) :
    downlinkAckRecord mode (downlinkAckFieldsOf p) = downlinkAckRecord mode (downlinkAckFieldsOf q) := by
  have hflag : payloadSlice p 4 1 = payloadSlice q 4 1 :=
    payloadSlice_congr (by decide) (payloadBits_congr_low (by decide) hlow)
  have hbyte : ∀ o, 2 ≤ o → o < 12 → (o < 4 ∨ mode = .payload) → payloadSlice p (8 * o) 8 = payloadSlice q (8 * o) 8 :=
    fun o hlo hhi hread => payloadSlice_congr_bytes o 1 (Nat.le_refl _) (by omega) (by omega) fun i hi hio => by
      obtain rfl : i = o := by omega
      exact hbytes i hlo hread
  have hdata : downlinkData mode (downlinkAckFieldsOf p) = downlinkData mode (downlinkAckFieldsOf q) := by
    cases mode with
    | literal => rfl
    | payload =>
      refine congrArg Vector.ofFn (funext fun k => ?_)
      have hk : 32 + 8 * (k : Nat) = 8 * (4 + k) := by omega
      rw [hk]
      exact hbyte (4 + k) (by omega) (by omega) (.inr rfl)
  have hmajor : payloadSlice p 16 8 = payloadSlice q 16 8 := hbyte 2 (by decide) (by decide) (.inl (by decide))
  have hminor : payloadSlice p 24 8 = payloadSlice q 24 8 := hbyte 3 (by decide) (by decide) (.inl (by decide))
  simp only [downlinkAckRecord, hdata]
  simp only [downlinkAckFieldsOf, hflag, hmajor, hminor]

/-- Payloads that differ in unused bits alone have one outcome (R81). -/
theorem outcome_congr_unused {mode : DlDataMode} {p q : List Byte} (hlen : p.length = q.length)
    (h : (payloadBits p 0 4 = 0 ∧ payloadBits q 0 6 = payloadBits p 0 6 ∧ ∀ i, 1 ≤ i → byteAt p i = byteAt q i) ∨
      (payloadBits p 0 4 = 1 ∧ payloadBits q 0 5 = payloadBits p 0 5 ∧
        ∀ i, 2 ≤ i → (i < 4 ∨ mode = .payload) → byteAt p i = byteAt q i)) : outcome mode p = outcome mode q := by
  obtain ⟨htag, hlow, hbytes⟩ | ⟨htag, hlow, hbytes⟩ := h
  · have htag' : payloadBits q 0 4 = 0 := (payloadBits_congr_low (by decide) hlow).symm.trans htag
    simp only [outcome, hlen, htag, htag', if_true, positionalRecord_congr hlow hbytes]
  · have htag' : payloadBits q 0 4 = 1 := (payloadBits_congr_low (by decide) hlow).symm.trans htag
    simp only [outcome, hlen, htag, htag', Nat.one_ne_zero, if_true, if_false, downlinkAckRecord_congr hlow hbytes]

/-- Settles O27: both requests complete with their payload's outcome, and the two outcomes are one. -/
theorem unusedBitsIgnored : Obligations.UnusedBitsIgnored := by
  intro s u rest more p q hs hu hmode hlen hunused
  obtain ⟨t, ht, htres⟩ := step_request_res hs
  obtain ⟨v, hv, hvres⟩ := step_request_res hu
  refine ⟨t, v, ht, hv, ?_⟩
  rw [htres, hvres, ← hmode, outcome_congr_unused hlen hunused]

end Sys2Proof.Proofs
end

section
/-! PROOFS. The statements of 40_hex_front_end.md: the trimmed string without its `0x` (R97, R98), its hex digits (R100,
R102) and their pairs (R101), and what a DECODE_HEX step makes of them (R95, R96, R103, R179). -/

namespace Sys2Proof.Proofs

open Sys2Proof Sys2Proof.Machine Sys2Proof.Reference

/-! ### The DECODE_HEX step -/

/-- On malformed input the caller gets the position, and that is all a step does (R179). -/
theorem step_decodeHex_error {s : State} {rest : List HostOp} {input : Option (List Char)} {j : Nat}
    (hp : s.pending = .decodeHex .strict input :: rest) (h : hex2b s.wsSet input = .error j) :
    step s = .next { s with pending := rest, reply := some (.malformedHex j) } := by
  rw [step_of_pending hp]
  simp only [interact, decodeHex, h]

/-- Any other input is the request of its bytes (R95). -/
theorem step_decodeHex_ok {s : State} {rest : List HostOp} {input : Option (List Char)} {p : List Byte}
    (hp : s.pending = .decodeHex .strict input :: rest) (h : hex2b s.wsSet input = .ok p) :
    step s = request { s with pending := rest } p := by
  rw [step_of_pending hp]
  simp only [interact, decodeHex, h]

/-- Settles O40: the two ends of HEX2B are the two arms of the step. -/
theorem decodeHexRule : Obligations.DecodeHexRule :=
  ⟨rfl, fun _ _ _ hp => ⟨fun _ hj => ⟨step_decodeHex_error hp hj, rfl⟩, fun _ hok => step_decodeHex_ok hp hok⟩⟩

/-- DECODE_HEX looks at its input through HEX2B alone. -/
theorem step_decodeHex_congr (s : State) (rest : List HostOp) {x y : Option (List Char)}
    (h : hex2b s.wsSet x = hex2b s.wsSet y) :
    step { s with pending := .decodeHex .strict x :: rest } = step { s with pending := .decodeHex .strict y :: rest } := by
  rw [step_of_pending rfl, step_of_pending rfl]
  simp only [interact, decodeHex, h]

/-! ### Trimming and the leading `0x` -/

/-- White space in front of a list that does not begin with it is what `dropWhile` drops. -/
theorem dropWhile_white_append {ws pre body : List Char} (hpre : ∀ c ∈ pre, c ∈ ws)
    (hbody : ∀ c, body.head? = some c → c ∉ ws) : (pre ++ body).dropWhile ws.contains = body := by
  rw [List.dropWhile_append_of_pos fun c hc => List.contains_iff_mem.mpr (hpre c hc)]
  cases body with
  | nil => rfl
  | cons c t => exact List.dropWhile_cons_of_neg fun hc => hbody c rfl (List.contains_iff_mem.mp hc)

/-- trim takes the white space off both ends of a body that neither begins nor ends with it (R97). -/
theorem trim_eq_body {ws pre body post : List Char} (hpre : ∀ c ∈ pre, c ∈ ws) (hpost : ∀ c ∈ post, c ∈ ws)
    (hhead : ∀ c, body.head? = some c → c ∉ ws) (hlast : ∀ c, body.getLast? = some c → c ∉ ws) :
    trim ws (pre ++ body ++ post) = body := by
  have hback : ((body ++ post).reverse.dropWhile ws.contains).reverse = body := by
    rw [List.reverse_append, dropWhile_white_append (by simpa using hpost) (by simpa using hlast), List.reverse_reverse]
  cases body with
  | nil =>
    have hall : (pre ++ [] ++ post).dropWhile ws.contains = [] := by
      simpa using fun c (hc : c ∈ pre ∨ c ∈ post) => hc.elim (hpre c) (hpost c)
    rw [trim, hall]
    rfl
  | cons c t =>
    rw [trim, List.append_assoc, dropWhile_white_append hpre (body := c :: t ++ post) hhead, hback]

/-- Without a leading `0x`, nothing is stripped (R98). -/
theorem stripPrefix_eq_self {t : List Char} (h : ∀ u, t ≠ '0' :: 'x' :: u) : stripPrefix t = t := by
  unfold stripPrefix
  split
  case h_1 u => exact absurd rfl (h u)
  case h_2 => rfl

/-- The machine's trimming and stripping give the one string that R97 and R98 describe. -/
theorem stripPrefix_trim {ws s t : List Char} (h : BodyOf ws s t) : stripPrefix (trim ws s) = t := by
  obtain ⟨pre, body, post, rfl, hpre, hpost, hhead, hlast, hbody⟩ := h
  rw [trim_eq_body hpre hpost hhead hlast]
  obtain rfl | ⟨rfl, hplain⟩ := hbody
  · rfl
  · exact stripPrefix_eq_self hplain

/-- White space alone has the empty body. -/
theorem bodyOf_white {ws s : List Char} (h : ∀ c ∈ s, c ∈ ws) : BodyOf ws s [] :=
  ⟨s, [], [], by simp, h, by simp, by simp, by simp, .inr ⟨rfl, by simp⟩⟩

/-- A string without white space at its ends and without a leading `0x` is its own body. -/
theorem bodyOf_plain {ws t : List Char} (hhead : ∀ c, t.head? = some c → c ∉ ws)
    (hlast : ∀ c, t.getLast? = some c → c ∉ ws) (hplain : ∀ u, t ≠ '0' :: 'x' :: u) : BodyOf ws t t :=
  ⟨[], t, [], by simp, by simp, by simp, hhead, hlast, .inr ⟨rfl, hplain⟩⟩

/-- Its prefixed twin has the same body, where neither `0` nor `x` is white space (R103). -/
theorem bodyOf_prefixed {ws t : List Char} (h0 : '0' ∉ ws) (hx : 'x' ∉ ws)
    (hlast : ∀ c, t.getLast? = some c → c ∉ ws) : BodyOf ws ('0' :: 'x' :: t) t := by
  refine ⟨[], '0' :: 'x' :: t, [], by simp, by simp, by simp, by simpa using h0, fun c hc => ?_, .inl rfl⟩
  cases t with
  | nil => cases hc; exact hx
  | cons d t => exact hlast c (by simpa using hc)

/-! ### Hex digits -/

/-- The ranges of hexval are the rows of the digit table (R102). -/
theorem hexVal_eq_digit (c : Char) : hexVal c = digit c := by
  by_cases hascii : c.toNat < 128
  · have hall : ∀ n < 128, hexVal (Char.ofNat n) = digit (Char.ofNat n) := by decide
    simpa using hall c.toNat hascii
  · have hnone : digit c = none := List.lookup_eq_none_iff.mpr fun p hp => by
      have hkey : ∀ p ∈ hexTable, p.1.toNat < 128 := by decide
      exact bne_iff_ne.mpr fun hc => hascii (hc ▸ hkey p hp)
    have h9 : '9'.toNat = 57 := rfl
    have hf : 'f'.toNat = 102 := rfl
    have hF : 'F'.toNat = 70 := rfl
    rw [hnone, hexVal, if_neg (by omega), if_neg (by omega), if_neg (by omega)]

/-- A hex digit is a nibble (R102). -/
theorem digit_lt {c : Char} {d : Nat} (h : digit c = some d) : d < 16 := by
  obtain ⟨l₁, l₂, hl, -⟩ := List.lookup_eq_some_iff.mp h
  have hmem : (c, d) ∈ hexTable := by simp [hl]
  have hall : ∀ p ∈ hexTable, p.2 < 16 := by decide
  exact hall _ hmem

/-- The index of the first character that is no hex digit, if there is one (R100). -/
def firstBad (t : List Char) : Option Nat := t.findIdx? fun c => (digit c).isNone

/-- That index, as R100 describes it: no hex digit there, and hex digits alone before it. -/
theorem firstBad_eq_some_iff (t : List Char) (j : Nat) :
    firstBad t = some j ↔
      (∃ c, t[j]? = some c ∧ digit c = none) ∧ ∀ k c, k < j → t[k]? = some c → (digit c).isSome = true := by
  simp only [firstBad, List.findIdx?_eq_some_iff_getElem, List.getElem?_eq_some_iff, Option.isNone_iff_eq_none]
  constructor
  · rintro ⟨hj, hbad, hearlier⟩
    exact ⟨⟨_, ⟨hj, rfl⟩, hbad⟩, fun k c hk ⟨_, hc⟩ => hc ▸ Option.isSome_iff_ne_none.mpr (hearlier k hk)⟩
  · rintro ⟨⟨_, ⟨hj, rfl⟩, hbad⟩, hearlier⟩
    exact ⟨hj, hbad, fun k hk => Option.isSome_iff_ne_none.mp (hearlier k _ hk ⟨_, rfl⟩)⟩

theorem firstBad_eq_none {t : List Char} (h : ∀ c ∈ t, (digit c).isSome = true) : firstBad t = none :=
  List.findIdx?_eq_none_iff.mpr fun c hc => by simpa using h c hc

/-- Validation stops at the first character that is no hex digit, and else gives each digit's value (R100). -/
theorem hexDigits_eq (t : List Char) :
    ∀ n, hexDigits n t = (firstBad t).elim (.ok (t.filterMap digit)) fun j => .error (n + j) := by
  induction t with
  | nil => intro n; rfl
  | cons c t ih =>
    intro n
    rw [hexDigits, hexVal_eq_digit, ih]
    simp only [firstBad, List.findIdx?_cons]
    cases hc : digit c with
    | none => simp
    | some d => cases ht : t.findIdx? _ <;> simp [hc, Nat.add_comm, Nat.add_left_comm]

/-- HEX2B in terms of the string that trimming and stripping leave (R95). -/
theorem hex2b_of_bodyOf {ws s t : List Char} (h : BodyOf ws s t) :
    hex2b ws (some s) = (firstBad t).elim (.ok (pairDigits (t.filterMap digit))) .error := by
  rw [hex2b, stripPrefix_trim h, hexDigits_eq]
  cases firstBad t <;> simp

/-- Settles O37: HEX2B fails exactly with the index of the first character that is no hex digit. -/
theorem malformedHexReportsFirstBadCharacter : Obligations.MalformedHexReportsFirstBadCharacter := by
  intro ws s t j hbody
  rw [← firstBad_eq_some_iff, hex2b_of_bodyOf hbody]
  cases firstBad t <;> simp

/-- Settles O39: the twins have one body, so HEX2B gives the same for both. -/
theorem prefixedAndPlainAgree : Obligations.PrefixedAndPlainAgree := by
  intro s rest t h0 hx hhead hlast hplain
  apply step_decodeHex_congr
  rw [hex2b_of_bodyOf (bodyOf_prefixed h0 hx hlast), hex2b_of_bodyOf (bodyOf_plain hhead hlast hplain)]

/-! ### Empty input -/

/-- White space alone gives no bytes (R96, R97). -/
theorem hex2b_white {ws s : List Char} (h : ∀ c ∈ s, c ∈ ws) : hex2b ws (some s) = .ok [] :=
  hex2b_of_bodyOf (bodyOf_white h)

/-- A request without bytes completes with `PLEN` 0 and `NONE_EMPTY` (R125, R129). -/
theorem request_nil (s : State) : request s [] = .next ((s.latch []).endTransaction .noneEmpty).respond := by
  obtain ⟨r, rfl, hreq⟩ := request_completes s.dlDataMode []
  exact hreq s rfl

/-- Settles O36: both inputs give no bytes, and the step is the request of no bytes. -/
theorem emptyInputGivesNoBytes : Obligations.EmptyInputGivesNoBytes := by
  refine ⟨fun _ => rfl, fun _ _ => hex2b_white, fun s rest input hp hwhite => ?_⟩
  have hbytes : hex2b s.wsSet input = .ok [] := by
    cases input with
    | none => rfl
    | some t => exact hex2b_white (hwhite t rfl)
  rw [step_decodeHex_ok hp hbytes, request_nil]
  exact ⟨_, rfl, rfl, rfl, rfl⟩

/-! ### Pairs of digits -/

/-- An odd last digit makes no byte (R99, R101). -/
theorem length_pairDigits (ds : List Nat) : (pairDigits ds).length = ds.length / 2 := by
  induction ds using pairDigits.induct with
  | case1 h l t ih => simp only [pairDigits, List.length_cons, ih]; omega
  | case2 => simp [pairDigits]
  | case3 => rfl

/-- Byte i is built from digits 2i and 2i + 1, the high nibble first (R101). -/
theorem getElem?_pairDigits {ds : List Nat} : ∀ {i : Nat} {b : Byte}, (pairDigits ds)[i]? = some b →
    ∃ h l, ds[2 * i]? = some h ∧ ds[2 * i + 1]? = some l ∧ b = BitVec.ofNat 8 (h * 16 + l) := by
  induction ds using pairDigits.induct with
  | case1 h l t ih =>
    rintro (_ | i) b hb
    · exact ⟨h, l, rfl, rfl, by simpa [pairDigits] using hb.symm⟩
    · exact ih (by simpa [pairDigits] using hb)
  | case2 => intro i b hb; simp [pairDigits] at hb
  | case3 => intro i b hb; simp [pairDigits] at hb

/-- A string of hex digits has one value for each character. -/
theorem map_digit {t : List Char} (h : ∀ c ∈ t, (digit c).isSome = true) :
    (t.filterMap digit).map some = t.map digit := by
  rw [List.map_filterMap_some_eq_filter_map_isSome, List.filter_eq_self]
  simpa using h

/-- The value at an index is that of the character there. -/
theorem exists_char_of_digit {t : List Char} (h : ∀ c ∈ t, (digit c).isSome = true) {k d : Nat}
    (hd : (t.filterMap digit)[k]? = some d) : ∃ c, t[k]? = some c ∧ digit c = some d := by
  have hk : (t.map digit)[k]? = some (some d) := by rw [← map_digit h, List.getElem?_map, hd]; rfl
  simpa using hk

/-- Settles O38: the bytes are the pairs of the digits' values, which are nibbles. -/
theorem hexDigitsPairIntoBytes : Obligations.HexDigitsPairIntoBytes := by
  intro ws s t hbody hdigits
  refine ⟨pairDigits (t.filterMap digit), ?_, ?_, fun i b hb => ?_⟩
  · rw [hex2b_of_bodyOf hbody, firstBad_eq_none hdigits]
    rfl
  · rw [length_pairDigits]
    simpa using congrArg (List.length · / 2) (map_digit hdigits)
  · obtain ⟨h, l, hh, hl, rfl⟩ := getElem?_pairDigits hb
    obtain ⟨c, hc, hch⟩ := exists_char_of_digit hdigits hh
    obtain ⟨d, hd, hdl⟩ := exists_char_of_digit hdigits hl
    refine ⟨c, d, h, l, hc, hd, hch, hdl, ?_⟩
    have hhigh := digit_lt hch
    have hlow := digit_lt hdl
    rw [BitVec.toNat_ofNat, Nat.mod_eq_of_lt (by omega)]

end Sys2Proof.Proofs
end

section
/-! PROOFS. The statements of 41_bitfield_extractor.md: what each primitive answers inside the payload and past it (R110-R112,
R114, R116, R117), its argument domain (R115) and its mask (R113). -/

namespace Sys2Proof.Proofs

open Sys2Proof Sys2Proof.Machine Sys2Proof.Reference

/-! ### The windows

The spec writes a window as bytes shifted and or-ed; `memRead` answers the number the window's bytes spell. -/

/-- Or-ing a payload byte below a shifted number is adding (R111). -/
theorem shiftLeft_or_byteAt (h : Nat) (p : List Byte) (o : Nat) : (h <<< 8) ||| byteAt p o = byteAt p o + 256 * h := by
  rw [Nat.lor_comm]
  exact byte_or_shift _ h

/-- The two-byte window is the number its bytes spell (R111). -/
theorem leNumber_window16 (p : List Byte) (o : Nat) : leNumber ((p.drop o).take 2) = window16 p o := by
  rw [window16, shiftLeft_or_byteAt, leNumber_window_succ, leNumber_window_succ, List.take_zero, leNumber]
  rfl

/-- The four-byte window one byte at a time, the highest first (R114). -/
theorem window32_eq (p : List Byte) (o : Nat) :
    window32 p o =
      (((byteAt p (o + 3) <<< 8 ||| byteAt p (o + 2)) <<< 8 ||| byteAt p (o + 1)) <<< 8) ||| byteAt p o := by
  simp only [window32, Nat.shiftLeft_or_distrib, ← Nat.shiftLeft_add]

/-- The four-byte window is the number its bytes spell (R114). -/
theorem leNumber_window32 (p : List Byte) (o : Nat) : leNumber ((p.drop o).take 4) = window32 p o := by
  simp only [window32_eq, shiftLeft_or_byteAt, leNumber_window_succ, List.take_zero, leNumber, Nat.add_assoc,
    Nat.reduceAdd, Nat.mul_zero, Nat.add_zero]

/-! ### Each primitive by the read it makes -/

/-- SHR1 halves its byte (R117). -/
theorem shr1_eq (s : State) (o : Nat) : s.shr1 o = (s.byte o).map (· / 2) := by
  rw [State.shr1]
  cases s.byte o <;> rfl

/-- BIT cuts one flag bit out of byte 0 (R117). -/
theorem bit_eq (s : State) {i : Nat} (hi : i = 4 ∨ i = 5) : s.bit i = (s.byte 0).map (· / 2 ^ i % 2) := by
  rw [State.bit, if_pos hi]
  simp only [Nat.shiftRight_eq_div_pow, Nat.and_one_is_mod]
  cases s.byte 0 <;> rfl

/-- LE16BITS inside its domain is a bit field of its window (R112, R115). -/
theorem le16bits_eq (s : State) (o : Nat) {bo bl : Nat} (hbo : bo ≤ 15) (hbl : bl ≤ 16) :
    s.le16bits o bo bl = (s.le16 o).map (bitField · bo bl) := by
  rw [State.le16bits, if_neg (by omega)]
  cases s.le16 o <;> rfl

/-- Outside its domain LE16BITS is refused before it reads (R115). -/
theorem le16bits_refused (s : State) (o : Nat) {bo bl : Nat} (h : 15 < bo ∨ 16 < bl) :
    s.le16bits o bo bl = .error (.refused (.extractorDomain o bo bl)) :=
  if_pos h

/-- LE32 is the signed reading of its window (R114). -/
theorem le32_eq (s : State) (o : Nat) : s.le32 o = (s.memRead o .w32).map signed32 := by
  rw [← funext sext32_eq_signed32, State.le32]
  cases s.memRead o .w32 <;> rfl

/-! ### Inside the payload -/

section
variable {s : State} {p : List Byte} {o : Nat} (hl : s.Latched p)
include hl

/-- BYTE gives the payload's byte (R110). -/
theorem byte_latched (ho : o + 1 ≤ p.length) (hd : o + 1 ≤ 12) : s.byte o = .ok (byteAt p o) := by
  rw [hl.byte ho hd, byteAt, List.getD_eq_getElem p 0 ho]

/-- LE16 gives the two-byte window (R111). -/
theorem le16_latched (ho : o + 2 ≤ p.length) (hd : o + 2 ≤ 12) : s.le16 o = .ok (window16 p o) := by
  rw [← leNumber_window16]
  exact hl.memRead (w := .w16) ho hd

/-- LE32 gives the signed four-byte window (R114). -/
theorem le32_latched (ho : o + 4 ≤ p.length) (hd : o + 4 ≤ 12) : s.le32 o = .ok (signed32 (window32 p o)) := by
  rw [← leNumber_window32, le32_eq, hl.memRead (w := .w32) ho hd]
  rfl

end

/-! ### Past the payload -/

section
variable {s : State} {len o : Nat} (hlen : s.plen = some len)
include hlen

/-- BYTE past `PLEN` faults (R116). -/
theorem byte_bounds (h : len < o + 1) : s.byte o = .error (.fault (.boundsFault o 1)) :=
  State.memRead_bounds (w := .w8) hlen h

/-- LE16 past `PLEN` faults (R116). -/
theorem le16_bounds (h : len < o + 2) : s.le16 o = .error (.fault (.boundsFault o 2)) :=
  State.memRead_bounds (w := .w16) hlen h

/-- LE32 past `PLEN` faults (R116). -/
theorem le32_bounds (h : len < o + 4) : s.le32 o = .error (.fault (.boundsFault o 4)) := by
  rw [le32_eq, State.memRead_bounds (w := .w32) hlen h]
  rfl

end

/-- Settles O16: each primitive is a function of its one read, which answers the window inside the payload and the fault
past it. -/
theorem extractorPrimitives : Obligations.ExtractorPrimitives := by
  refine ⟨fun s p o hl => ⟨fun ho hd => ?_, fun ho hd => ?_, le32_latched hl, fun hp => ?_⟩,
    fun s len o hlen => ⟨fun h => ?_, fun h => ?_, le32_bounds hlen, fun h => ?_⟩, fun s p => ?_⟩
  · have hbyte := byte_latched hl ho hd
    exact ⟨hbyte, by rw [shr1_eq, hbyte]; rfl⟩
  · have hword := le16_latched hl ho hd
    exact ⟨hword, fun bo bl hbo hbl => by rw [le16bits_eq s o hbo hbl, hword]; rfl⟩
  · have hbyte := byte_latched (o := 0) hl hp (by decide)
    exact ⟨by rw [bit_eq s (.inl rfl), hbyte]; rfl, by rw [bit_eq s (.inr rfl), hbyte]; rfl⟩
  · have hbyte := byte_bounds hlen h
    exact ⟨hbyte, by rw [shr1_eq, hbyte]; rfl⟩
  · have hword := le16_bounds hlen h
    exact ⟨hword, fun bo bl hbo hbl => by rw [le16bits_eq s o hbo hbl, hword]; rfl⟩
  · have hbyte := byte_bounds (o := 0) hlen (by omega)
    exact ⟨by rw [bit_eq s (.inl rfl), hbyte]; rfl, by rw [bit_eq s (.inr rfl), hbyte]; rfl⟩
  · obtain ⟨r, hr, -⟩ := transaction_latched (s.latched_latch p)
    exact ⟨_, hr⟩

/-! ### The bits of a field -/

/-- Bit k of an extraction is bit bo + k of what it cuts from, below its length (R112). -/
theorem testBit_bitField (w bo bl k : Nat) :
    (bitField w bo bl).testBit k = (decide (k < bl) && w.testBit (bo + k)) := by
  rw [bitField_eq, Nat.testBit_mod_two_pow, Nat.testBit_div_two_pow, Nat.add_comm k bo]

/-- Settles O19: a 16-bit window has no bit past 15. -/
theorem bitFieldIsWindowBits : Obligations.BitFieldIsWindowBits := by
  intro w bo bl k hw
  rw [testBit_bitField]
  by_cases hin : bo + k < 16
  · simp [hin]
  · have hpast : w.testBit (bo + k) = false :=
      Nat.testBit_lt_two_pow (hw.trans_le (Nat.pow_le_pow_right (by decide) (Nat.le_of_not_lt hin)))
    simp [hpast]

/-! ### The argument domain -/

/-- Every operation is well formed. -/
theorem layoutFits (i : Instr) : Laws.LayoutFits.Statement i :=
  match i with
  | .positional => Laws.LayoutFits.positional
  | .downlinkAck => Laws.LayoutFits.downlinkAck
  | .deviceStats => Laws.LayoutFits.deviceStats
  | .unrecognized3 => Laws.LayoutFits.unrecognized3
  | .unrecognized4 => Laws.LayoutFits.unrecognized4
  | .unrecognized5 => Laws.LayoutFits.unrecognized5
  | .unrecognized6 => Laws.LayoutFits.unrecognized6
  | .unrecognized7 => Laws.LayoutFits.unrecognized7
  | .unrecognized8 => Laws.LayoutFits.unrecognized8
  | .unrecognized9 => Laws.LayoutFits.unrecognized9
  | .unrecognized10 => Laws.LayoutFits.unrecognized10
  | .unrecognized11 => Laws.LayoutFits.unrecognized11
  | .unrecognized12 => Laws.LayoutFits.unrecognized12
  | .unrecognized13 => Laws.LayoutFits.unrecognized13
  | .unrecognized14 => Laws.LayoutFits.unrecognized14
  | .unrecognized15 => Laws.LayoutFits.unrecognized15

/-- So every operand of every operation is, in both modes. -/
theorem fieldWellFormed_of_mem_operands {mode : DlDataMode} {i : Instr} {f : FieldSpec} (hf : f ∈ operands mode i) :
    fieldWellFormed (minLength mode i) f = true := by
  have hboth := layoutFits i
  simp only [Laws.LayoutFits.Statement, Instr.wellFormed, Bool.and_eq_true, List.all_eq_true] at hboth
  obtain ⟨hpayload, hliteral⟩ := hboth
  cases mode with
  | payload => exact hpayload f hf
  | literal => exact hliteral f hf

/-- Settles O17: the refusal is the first branch, and a well-formed operand's LE16BITS is inside the domain. -/
theorem extractorDomainRefused : Obligations.ExtractorDomainRefused := by
  refine ⟨fun s o _ _ h => le16bits_refused s o h, fun mode i f hf o bo bl hsrc => ?_⟩
  have hwf := fieldWellFormed_of_mem_operands hf
  simp only [fieldWellFormed, hsrc, extractWellFormed, Bool.and_eq_true, decide_eq_true_eq] at hwf
  obtain ⟨⟨hdomain, -⟩, -⟩ := hwf
  exact hdomain

/-! ### The mask -/

/-- The `k` lowest of `n` ones are the `k` highest shifted down, at every width (R113). -/
theorem mask_eq_shiftRight {n k : Nat} (h : k ≤ n) : (1 <<< k) - 1 = (2 ^ n - 1) >>> (n - k) := by
  refine Nat.eq_of_testBit_eq fun j => ?_
  have hiff : j < k ↔ n - k + j < n := by omega
  rw [Nat.one_shiftLeft, Nat.testBit_shiftRight, Nat.testBit_two_pow_sub_one, Nat.testBit_two_pow_sub_one]
  exact decide_eq_decide.mpr hiff

/-- Settles O18: the two masks at width 16, and R115's refusal for a longer bl. -/
theorem maskFormsAgree : Obligations.MaskFormsAgree :=
  ⟨fun _ hbl => mask_eq_shiftRight (n := 16) hbl, fun s o _ _ hbl => le16bits_refused s o (.inr hbl)⟩

end Sys2Proof.Proofs
end

section
/-! PROOFS. The statements of 42_dispatch.md: which outcomes an operation can end with (R125, R127, R131), the one outcome
of a REQUEST (R125, R129), and the payload bytes no outcome depends on (R130). -/

namespace Sys2Proof.Proofs

open Sys2Proof Sys2Proof.Machine Sys2Proof.Reference

/-! ### The kind an operation writes -/

/-- Every result a parse can give is of one kind. -/
def GivesKind (k : Kind) (x : Except Stop Result) : Prop := ∀ r, x = .ok r → r.kind = k

theorem givesKind_ok (r : Result) : GivesKind r.kind (.ok r) := by
  rintro _ ⟨⟩
  rfl

/-- The operands read before it do not bear on the kind a parser ends with. -/
theorem givesKind_bind {α : Type} {k : Kind} {x : Except Stop α} {f : α → Except Stop Result}
    (h : ∀ a, GivesKind k (f a)) : GivesKind k (x >>= f) := by
  cases x with
  | error e => exact nofun
  | ok a => exact h a

/-- Seven operands, then a Positional record (R140). -/
theorem givesKind_parsePositional (s : State) : GivesKind .recPositional (parsePositional s) := by
  rw [parsePositional]
  iterate 7 refine givesKind_bind fun _ => ?_
  exact givesKind_ok _

/-- Three operands and DownlinkData, then a Downlink Acknowledgement record (R150). -/
theorem givesKind_parseDownlinkAck (s : State) : GivesKind .recDownlinkAck (parseDownlinkAck s) := by
  rw [parseDownlinkAck]
  iterate 4 refine givesKind_bind fun _ => ?_
  exact givesKind_ok _

/-- Ten operands, then a Device Statistics record (R160). -/
theorem givesKind_parseDeviceStats (s : State) : GivesKind .recDeviceStats (parseDeviceStats s) := by
  rw [parseDeviceStats]
  iterate 10 refine givesKind_bind fun _ => ?_
  exact givesKind_ok _

/-- A record operation ends with its parser's kind or TruncatedPayload (R128). -/
theorem kind_of_withLength {s t : State} {need : Nat} {parse : State → Except Stop Result} {k : Kind}
    (hk : GivesKind k (parse s)) (h : s.withLength need parse = .next t) :
    ∃ r, t.res = some r ∧ (r.kind = k ∨ r.kind = .errTruncated) := by
  obtain ⟨len, -, ⟨-, rfl⟩ | ⟨-, r, hr, rfl⟩⟩ := State.withLength_next h
  · exact ⟨.errTruncated, rfl, .inr rfl⟩
  · exact ⟨r, rfl, .inl (hk r hr)⟩

/-- Settles O13: a record operation is its parser behind the length check; the thirteen others only end the transaction. -/
theorem operationWritesItsOwnKind : Obligations.OperationWritesItsOwnKind := by
  intro i s t h
  cases i with
  | positional =>
    obtain ⟨r, hr, hkind⟩ := kind_of_withLength (givesKind_parsePositional s) h
    exact ⟨r, hr, .inl ⟨rfl, hkind⟩⟩
  | downlinkAck =>
    obtain ⟨r, hr, hkind⟩ := kind_of_withLength (givesKind_parseDownlinkAck s) h
    exact ⟨r, hr, .inr (.inl ⟨rfl, hkind⟩)⟩
  | deviceStats =>
    obtain ⟨r, hr, hkind⟩ := kind_of_withLength (givesKind_parseDeviceStats s) h
    exact ⟨r, hr, .inr (.inr (.inl ⟨rfl, hkind⟩))⟩
  | _ =>
    cases h
    exact ⟨.noneUnrecognized, rfl, .inr (.inr (.inr ⟨by decide, rfl⟩))⟩

/-! ### The request -/

/-- Settles O24: the step is the pending REQUEST, which completes with its payload's outcome from every state. -/
theorem requestGivesSpecifiedOutcome : Obligations.RequestGivesSpecifiedOutcome := by
  intro s rest p hp
  obtain ⟨r, hout, hreq⟩ := request_completes s.dlDataMode p
  exact ⟨r, hout, (step_of_pending hp).trans (hreq _ rfl)⟩

/-! ### Bytes the record type does not read -/

/-- The low bits of a payload are byte 0's, also where there is no byte (R17). -/
theorem payloadBits_low (p : List Byte) {w : Nat} (hw : w ≤ 8) : payloadBits p 0 w = byteAt p 0 % 2 ^ w := by
  have hbits := payloadBits_window p 0 1 (j := 0) (by omega : 0 + w ≤ 8 * 1)
  rw [leNumber_window_succ, List.take_zero] at hbits
  simpa [leNumber] using hbits

/-- The bytes of a payload's beginning. -/
theorem byteAt_take (p : List Byte) (n i : Nat) : byteAt (p.take n) i = if i < n then byteAt p i else 0 := by
  simp only [byteAt, List.getD_eq_getElem?_getD, List.getElem?_take]
  split <;> rfl

/-- The first 96 bits are the first twelve bytes'. -/
theorem payloadWord_congr {p q : List Byte} (h : ∀ i < 12, byteAt p i = byteAt q i) : payloadWord p = payloadWord q := by
  have hslice := payloadSlice_congr_bytes (lo := 0) (w := 96) 0 12 (by decide) (by decide) (by decide) fun i _ hi => h i hi
  rwa [payloadSlice, payloadSlice, BitVec.extractLsb'_eq_self, BitVec.extractLsb'_eq_self] at hslice

/-- Tag 0: the raw fields lie in the first twelve bytes (R73). -/
theorem positionalFieldsOf_congr {p q : List Byte} (h : ∀ i < 12, byteAt p i = byteAt q i) :
    positionalFieldsOf p = positionalFieldsOf q := by
  simp only [positionalFieldsOf, payloadSlice, payloadWord_congr h]

/-- Tag 1: the raw fields lie in the first twelve bytes (R74). -/
theorem downlinkAckFieldsOf_congr {p q : List Byte} (h : ∀ i < 12, byteAt p i = byteAt q i) :
    downlinkAckFieldsOf p = downlinkAckFieldsOf q := by
  simp only [downlinkAckFieldsOf, payloadSlice, payloadWord_congr h]

/-- Tag 2: the raw fields lie in the first twelve bytes (R75). -/
theorem deviceStatsFieldsOf_congr {p q : List Byte} (h : ∀ i < 12, byteAt p i = byteAt q i) :
    deviceStatsFieldsOf p = deviceStatsFieldsOf q := by
  simp only [deviceStatsFieldsOf, payloadSlice, payloadWord_congr h]

/-- Tag 1: the record depends on byte 0 and on the bytes below 12 that the mode reads (R58). -/
theorem downlinkAckRecord_congr_read {mode : DlDataMode} {p q : List Byte} (h0 : byteAt p 0 = byteAt q 0)
    (hbytes : ∀ i, 2 ≤ i → i < 12 → (i < 4 ∨ mode = .payload) → byteAt p i = byteAt q i) :
    downlinkAckRecord mode (downlinkAckFieldsOf p) = downlinkAckRecord mode (downlinkAckFieldsOf q) := by
  have htake (r : List Byte) : downlinkAckFieldsOf (r.take 12) = downlinkAckFieldsOf r :=
    downlinkAckFieldsOf_congr fun i hi => by rw [byteAt_take, if_pos hi]
  rw [← htake p, ← htake q]
  refine downlinkAckRecord_congr ?_ fun i hlo hread => ?_
  · rw [payloadBits_low _ (by decide), payloadBits_low _ (by decide), byteAt_take, byteAt_take, h0]
  · rw [byteAt_take, byteAt_take]
    split
    case isTrue hhi => exact hbytes i hlo hhi hread
    case isFalse => rfl

/-- Every record type reads byte 0, which holds the tag (R58, R70). -/
theorem zero_mem_indicesRead (mode : DlDataMode) (tag : Nat) : 0 ∈ indicesRead mode tag := by
  rw [indicesRead]
  split_ifs <;> decide

/-- The other bytes tag 1 reads: 2 and 3, and in `PAYLOAD` mode 4..11 (R58). -/
theorem mem_indicesRead_one {mode : DlDataMode} {i : Nat} (hlo : 2 ≤ i) (hhi : i < 12) (h : i < 4 ∨ mode = .payload) :
    i ∈ indicesRead mode 1 := by
  cases mode with
  | payload => exact List.mem_cons_of_mem 0 (List.mem_map.mpr ⟨i - 2, List.mem_range.mpr (by omega), by omega⟩)
  | literal =>
    obtain rfl | rfl : i = 2 ∨ i = 3 := by simp only [reduceCtorEq, or_false] at h; omega
    · decide
    · decide

/-- No record type's minimum is below one byte (R82). -/
theorem minimumFor_pos (mode : DlDataMode) (tag : Nat) : 0 < minimumFor mode tag := by
  rw [minimumFor]
  split_ifs <;> decide

/-- A payload of at least the minimum length is never TruncatedPayload: there is no "too long" error (R130). -/
theorem outcome_ne_errTruncated {mode : DlDataMode} {p : List Byte}
    (hlen : minimumFor mode (payloadBits p 0 4) ≤ p.length) : outcome mode p ≠ .errTruncated := by
  simp only [outcome, hlen.not_gt, if_false]
  split_ifs <;> exact nofun

/-- Payloads long enough and alike in the bytes their record type reads have one outcome (R58, R130). -/
theorem outcome_congr_read {mode : DlDataMode} {p q : List Byte}
    (hp : minimumFor mode (payloadBits p 0 4) ≤ p.length) (hq : minimumFor mode (payloadBits p 0 4) ≤ q.length)
    (hread : ∀ i ∈ indicesRead mode (payloadBits p 0 4), byteAt p i = byteAt q i) : outcome mode p = outcome mode q := by
  have h0 : byteAt p 0 = byteAt q 0 := hread 0 (zero_mem_indicesRead _ _)
  have htag : payloadBits q 0 4 = payloadBits p 0 4 := by
    rw [payloadBits_low q (by decide), payloadBits_low p (by decide), h0]
  have hpos := minimumFor_pos mode (payloadBits p 0 4)
  simp only [outcome, htag, (hpos.trans_le hp).ne', (hpos.trans_le hq).ne', hp.not_gt, hq.not_gt, if_false]
  generalize payloadBits p 0 4 = tag at hread
  obtain rfl | rfl | rfl | hnone : tag = 0 ∨ tag = 1 ∨ tag = 2 ∨ 3 ≤ tag := by omega
  · have hfields := positionalFieldsOf_congr fun i hi => hread i (List.mem_range.mpr hi)
    simp [hfields]
  · have hrecord := downlinkAckRecord_congr_read h0 fun i hlo hhi h => hread i (mem_indicesRead_one hlo hhi h)
    simp [hrecord]
  · have hfields := deviceStatsFieldsOf_congr fun i hi => hread i (List.mem_range.mpr hi)
    simp [hfields]
  · rw [if_pos hnone, if_pos hnone]

/-- Settles O26: both requests complete with their payload's outcome, and the two outcomes are one. -/
theorem unreadBytesIgnored : Obligations.UnreadBytesIgnored := by
  intro s u rest more p q hs hu hmode hp hq hread
  obtain ⟨t, ht, htres⟩ := step_request_res hs
  obtain ⟨v, hv, hvres⟩ := step_request_res hu
  have htag : byteAt p 0 % 16 = payloadBits p 0 4 := (payloadBits_low p (w := 4) (by decide)).symm
  rw [htag] at hp hq hread
  refine ⟨t, v, ht, hv, ?_, ?_⟩
  · rw [htres, hvres, ← hmode, outcome_congr_read hp hq hread]
  · rw [htres]
    exact fun h => outcome_ne_errTruncated hp (Option.some.inj h)

end Sys2Proof.Proofs
end

section
/-! PROOFS. The statement of 43_positional.md: POSITIONAL's seven fields by the payload's bytes, none range-checked, and
their physical values (R140-R144). -/

namespace Sys2Proof.Proofs

open Sys2Proof Sys2Proof.Machine Sys2Proof.Reference

/-! ### Payload bits by bytes

A record holds payload bits by number (R73-R75); the parsers' rules name whole bytes, bits of a byte, and windows. -/

/-- Bits of byte `o`, also past the payload's end (R17). -/
theorem payloadBits_byteAt (p : List Byte) (o j w : Nat) (h : j + w ≤ 8) :
    payloadBits p (8 * o + j) w = byteAt p o / 2 ^ j % 2 ^ w := by
  rw [payloadBits_window p o 1 h, leNumber_window_succ, List.take_zero, leNumber, Nat.mul_zero, Nat.add_zero]

/-- The eight bits from a byte's lowest are the byte (R110). -/
theorem payloadBits_eq_byteAt (p : List Byte) (o : Nat) : payloadBits p (8 * o) 8 = byteAt p o := by
  have hbyte : byteAt p o < 2 ^ 8 := BitVec.isLt _
  have hbits := payloadBits_byteAt p o 0 8 (Nat.le_refl 8)
  rwa [Nat.add_zero, Nat.pow_zero, Nat.div_one, Nat.mod_eq_of_lt hbyte] at hbits

/-- The 32 bits from a byte's lowest are the four-byte window there (R114). -/
theorem payloadBits_eq_window32 (p : List Byte) (o : Nat) : payloadBits p (8 * o) 32 = window32 p o :=
  (payloadBits_window32 p o).trans (leNumber_window32 p o)

/-- Byte 0 modulo 16 is the tag that selects the operation (R70, R79). -/
theorem decode_eq_ok_iff_byteAt {p : List Byte} (hp : p ≠ []) (i : Instr) :
    decode p = .ok i ↔ byteAt p 0 % 16 = i.tag.toNat := by
  rw [decode_eq_ok_iff hp, payloadBits_low p (by decide)]
  rfl

/-! ### Physical values (R119) -/

theorem latitude_eq_div (r : PositionalRecord) : r.latitude = (r.latRaw.toInt : Rat) / 10 ^ 7 :=
  Rat.mkRat_eq_div _ _

theorem longitude_eq_div (r : PositionalRecord) : r.longitude = (r.lonRaw.toInt : Rat) / 10 ^ 7 :=
  Rat.mkRat_eq_div _ _

theorem batteryVoltage_eq_div (r : PositionalRecord) : r.batteryVoltage = (r.battMv.toNat : Rat) / 1000 :=
  Rat.mkRat_eq_div _ _

/-! ### The record -/

/-- Settles O5: the record is the one of the payload's bits (R73), and each field's bits are those of its byte or window. -/
theorem positionalGivesRecord : Obligations.PositionalGivesRecord := by
  intro s p hl hlen
  have hne : p ≠ [] := List.ne_nil_of_length_pos (by omega)
  obtain ⟨hInTrip, hFixFailed, hLat, hLon, hHeading, hSpeed, hBatt⟩ := (positionalOf_iff p _).mpr rfl
  rw [payloadBits_byteAt p 0 4 1 (by decide)] at hInTrip
  rw [payloadBits_byteAt p 0 5 1 (by decide)] at hFixFailed
  rw [payloadBits_eq_window32 p 1] at hLat
  rw [payloadBits_eq_window32 p 5] at hLon
  rw [payloadBits_eq_byteAt p 9] at hHeading
  rw [payloadBits_eq_byteAt p 10] at hSpeed
  rw [payloadBits_eq_byteAt p 11] at hBatt
  refine ⟨_, exec_positional_latched hl hlen, hInTrip, hFixFailed, hLat, hLon, hHeading, hSpeed, hBatt, ?_, ?_, ?_, rfl,
    (decode_eq_ok_iff_byteAt hne .positional).mpr⟩
  · rw [latitude_eq_div, hLat]
  · rw [longitude_eq_div, hLon]
  · rw [batteryVoltage_eq_div, hBatt]

end Sys2Proof.Proofs
end

section
/-! PROOFS. The statements of 44_downlink_ack.md: DOWNLINK_ACK's record by the payload's bytes in both modes, with its length
check (R150, R151), and the firmware version's text (R152). -/

namespace Sys2Proof.Proofs

open Sys2Proof Sys2Proof.Machine Sys2Proof.Reference

/-! ### The record -/

theorem minLength_downlinkAck (mode : DlDataMode) : minLength mode .downlinkAck = if mode = .payload then 12 else 4 := by
  cases mode <;> rfl

/-- Below the mode's minimum length DOWNLINK_ACK ends with TruncatedPayload (R128). -/
theorem exec_downlinkAck_short {s : State} {p : List Byte} (hl : s.Latched p)
    (hshort : p.length < minLength s.dlDataMode .downlinkAck) :
    exec .downlinkAck s = .next (s.endTransaction .errTruncated) :=
  State.withLength_short parseDownlinkAck hl.1 hshort

/-- `PAYLOAD` mode's DownlinkData is payload bytes 4..11 (R150). -/
theorem downlinkData_payload_toNat (p : List Byte) (k : Fin 8) :
    (downlinkData .payload (downlinkAckFieldsOf p))[k].toNat = byteAt p (4 + k) := by
  have hbits := (eq_downlinkData_iff .payload p _).mpr rfl k
  have hbyte : 32 + 8 * (k : Nat) = 8 * (4 + k) := by omega
  rwa [if_pos rfl, hbyte, payloadBits_eq_byteAt] at hbits

/-- Settles O6: the record is the one of the payload's bits and the mode (R74), and each field's bits are those of its
byte. -/
theorem downlinkAckGivesRecord : Obligations.DownlinkAckGivesRecord := by
  refine ⟨fun s p hl hmode hshort => exec_downlinkAck_short hl (by rwa [hmode]), fun s p hl hlen => ?_⟩
  have hne : p ≠ [] := List.ne_nil_of_length_pos (by split at hlen <;> omega)
  rw [← minLength_downlinkAck] at hlen
  obtain ⟨hAccepted, hMajor, hMinor, -⟩ := (downlinkAckOf_iff s.dlDataMode p _).mpr rfl
  rw [payloadBits_byteAt p 0 4 1 (by decide)] at hAccepted
  rw [payloadBits_eq_byteAt p 2] at hMajor
  rw [payloadBits_eq_byteAt p 3] at hMinor
  refine ⟨_, exec_downlinkAck_latched hl hlen, hAccepted, hMajor, hMinor, fun hmode k => ?_, fun hmode k => ?_, rfl,
    (decode_eq_ok_iff_byteAt hne .downlinkAck).mpr⟩
  · rw [hmode]
    exact downlinkData_payload_toNat p k
  · rw [hmode]
    exact downlinkData_literal_toNat (downlinkAckFieldsOf p) k

/-! ### The firmware version's text -/

/-- Digits in any base begin with 0 only for 0 itself. -/
theorem eq_zero_of_head?_toDigits {b : Nat} (hb : 1 < b) (n : Nat) (h : (Nat.toDigits b n).head? = some '0') : n = 0 := by
  induction n using Nat.strongRecOn with
  | ind n ih =>
    by_cases hn : n < b
    · rw [Nat.toDigits_of_lt_base hn, List.head?_cons, Option.some.injEq] at h
      exact Nat.digitChar_eq_zero.mp h
    · have hle : b ≤ n := Nat.le_of_not_lt hn
      rw [Nat.toDigits_of_base_le hb hle, List.head?_append_of_ne_nil _ Nat.toDigits_ne_nil] at h
      have hhigh : n / b = 0 := ih (n / b) (Nat.div_lt_self (by omega) hb) h
      have hpos : 0 < n / b := Nat.div_pos hle (by omega)
      omega

/-- The digits of a byte spell it (R152). -/
theorem foldl_dec (v : Byte) : (dec v).foldl (fun n c => 10 * n + (c.toNat - 48)) 0 = v.toNat :=
  Nat.ofDigitChars_ten_toDigits

theorem toNat_mem_dec {v : Byte} {c : Char} (h : c ∈ dec v) : 48 ≤ c.toNat ∧ c.toNat ≤ 57 :=
  Char.isDigit_iff_toNat.mp (Nat.isDigit_of_mem_toDigits (by decide) (by decide) h)

theorem dec_ne_nil (v : Byte) : dec v ≠ [] :=
  Nat.toDigits_ne_nil

/-- Only the byte 0 has a leading zero (R152). -/
theorem eq_zero_of_head?_dec {v : Byte} (h : (dec v).head? = some '0') : v = 0#8 :=
  BitVec.eq_of_toNat_eq (eq_zero_of_head?_toDigits (by decide) v.toNat h)

theorem dec_zero : dec 0#8 = ['0'] :=
  Nat.toDigits_zero 10

/-- Settles O42: the digits of each part by the lemmas above, and the text is the two around a full stop. -/
theorem firmwareVersionText : Obligations.FirmwareVersionText := by
  refine ⟨fun v => ⟨foldl_dec v, fun c => toNat_mem_dec, ?_, fun hzero => ?_⟩, fun r => ?_⟩
  · rw [ne_eq, List.head?_eq_none_iff]
    exact dec_ne_nil v
  · obtain rfl := eq_zero_of_head?_dec hzero
    exact ⟨rfl, dec_zero⟩
  · rw [DownlinkAckRecord.firmwareVersion, List.append_assoc, List.singleton_append]

end Sys2Proof.Proofs
end

section
/-! PROOFS. The statements of 45_device_stats.md: DEVICE_STATS's ten fields by window, shift, mask and scale (R160-R170), and
the ranges and multiples of the scaled fields in every state (R31, R120, R171). -/

namespace Sys2Proof.Proofs

open Sys2Proof Sys2Proof.Machine Sys2Proof.Reference

/-! ### Payload bits by windows -/

/-- Bits of a two-byte window, also past the payload's end, are LE16BITS's shift and mask (R112). -/
theorem payloadBits_eq_bitField (p : List Byte) (o j w : Nat) (h : j + w ≤ 16) :
    payloadBits p (8 * o + j) w = bitField (window16 p o) j w := by
  rw [payloadBits_window p o 2 h, leNumber_window16, bitField_eq]

/-- The seven bits above a byte's lowest are the byte shifted (R117). -/
theorem payloadBits_eq_shr1 (p : List Byte) (o : Nat) : payloadBits p (8 * o + 1) 7 = byteAt p o >>> 1 := by
  have hbyte : byteAt p o < 2 ^ 8 := BitVec.isLt _
  rw [payloadBits_byteAt p o 1 7 (by decide), Nat.shiftRight_eq_div_pow, Nat.mod_eq_of_lt (by omega)]

/-! ### The record -/

/-- Settles O7: the record is the one of the payload's bits (R75), and each field's bits are those its window, shift and
mask cut out. -/
theorem deviceStatsGivesRecord : Obligations.DeviceStatsGivesRecord := by
  intro s p hl hlen
  have hne : p ≠ [] := List.ne_nil_of_length_pos (by omega)
  have hrecord : DeviceStatsOf p (deviceStatsRecord (deviceStatsFieldsOf p)) := (deviceStatsOf_iff p _).mpr rfl
  obtain ⟨hUptime, hTx, hRx, hTrip, hSuccess, hFailure, hFix, hFail, hFreshen, hWakeups⟩ := hrecord
  rw [payloadBits_eq_bitField p 0 4 9 (by decide)] at hUptime
  rw [payloadBits_eq_bitField p 1 5 11 (by decide)] at hTx
  rw [payloadBits_eq_byteAt p 3] at hRx
  rw [payloadBits_eq_bitField p 4 0 13 (by decide)] at hTrip
  rw [payloadBits_eq_bitField p 5 5 10 (by decide)] at hSuccess
  rw [payloadBits_eq_bitField p 6 7 8 (by decide)] at hFailure
  rw [payloadBits_eq_bitField p 7 7 9 (by decide)] at hFix
  rw [payloadBits_eq_bitField p 9 0 9 (by decide)] at hFail
  rw [payloadBits_eq_bitField p 10 1 8 (by decide)] at hFreshen
  rw [payloadBits_eq_shr1 p 11] at hWakeups
  exact ⟨_, exec_deviceStats_latched hl hlen, hUptime, hTx, hRx, hTrip, hSuccess, hFailure, hFix, hFail, hFreshen,
    hWakeups, (deviceStatsOf_iff p _).mpr rfl, rfl, (decode_eq_ok_iff_byteAt hne .deviceStats).mpr⟩

/-! ### What a completed read answers

The ranges hold in every state an operation runs in, so they are read off the answers themselves, not off a latched
payload. -/

/-- A read that answers has answered at each of its steps. -/
theorem bind_eq_ok_iff {α β : Type} {x : Except Stop α} {f : α → Except Stop β} {b : β} :
    x >>= f = .ok b ↔ ∃ a, x = .ok a ∧ f a = .ok b := by
  cases x with
  | error e => exact ⟨nofun, nofun⟩
  | ok a => exact ⟨fun h => ⟨a, rfl, h⟩, by rintro ⟨_, ⟨⟩, h⟩; exact h⟩

/-- The composite of `n` bytes has `8 n` bits (R53). -/
theorem readLE_lt {s : State} (n : Nat) : ∀ {a v : Nat}, s.readLE a n = .ok v → v < 2 ^ (8 * n) := by
  induction n with
  | zero =>
    rintro a v ⟨⟩
    decide
  | succ n ih =>
    intro a v h
    obtain ⟨b, -, h⟩ := bind_eq_ok_iff.mp h
    obtain ⟨high, hhigh, ⟨⟩⟩ := bind_eq_ok_iff.mp h
    have hb : b.toNat < 2 ^ 8 := b.isLt
    have hlt := ih hhigh
    rw [byte_or_shift, Nat.mul_succ, Nat.pow_add]
    omega

/-- BYTE answers eight bits (R110). -/
theorem byte_lt {s : State} {o v : Nat} (h : s.byte o = .ok v) : v < 2 ^ 8 := by
  rw [State.byte, State.memRead] at h
  split at h
  · exact readLE_lt 1 h
  · cases h

/-- An unsigned operand form answers a number of its bits (R120, R121). -/
theorem extract_lt {s : State} {e : Extract} {v : Int} (he : isUnsigned e = true) (h : s.extract e = .ok v) :
    ∃ n < 2 ^ bitCount e, v = (n : Nat) := by
  cases e with
  | bit i =>
    obtain ⟨n, hn, ⟨⟩⟩ := bind_eq_ok_iff.mp h
    refine ⟨n, ?_, rfl⟩
    rw [State.bit] at hn
    split at hn
    · obtain ⟨b, -, ⟨⟩⟩ := bind_eq_ok_iff.mp hn
      exact Nat.and_lt_two_pow (n := 1) _ (by decide)
    · cases hn
  | byte o =>
    obtain ⟨n, hn, ⟨⟩⟩ := bind_eq_ok_iff.mp h
    exact ⟨n, byte_lt hn, rfl⟩
  | shr1 o =>
    obtain ⟨n, hn, ⟨⟩⟩ := bind_eq_ok_iff.mp h
    obtain ⟨b, hb, ⟨⟩⟩ := bind_eq_ok_iff.mp hn
    have hlt := byte_lt hb
    refine ⟨b >>> 1, ?_, rfl⟩
    rw [Nat.shiftRight_eq_div_pow, bitCount]
    omega
  | le16bits o bo bl =>
    obtain ⟨n, hn, ⟨⟩⟩ := bind_eq_ok_iff.mp h
    refine ⟨n, ?_, rfl⟩
    rw [State.le16bits] at hn
    split at hn
    · cases hn
    · obtain ⟨w, -, ⟨⟩⟩ := bind_eq_ok_iff.mp hn
      rw [bitField_eq]
      exact Nat.mod_lt _ (Nat.two_pow_pos bl)
  | le32 o => cases he

/-- A product of `b` bits with a scale that fits a register stays in it (R120). -/
theorem scaled_lt {k n b w : Nat} (hw : k * 2 ^ b ≤ 2 ^ w) (hn : n < 2 ^ b) : k * n < 2 ^ w := by
  obtain rfl | hk := Nat.eq_zero_or_pos k
  · rw [Nat.zero_mul]
    exact Nat.two_pow_pos w
  · exact (Nat.mul_lt_mul_of_pos_left hn hk).trans_le hw

/-- A result field whose register holds its scaled bits is a multiple of its scale, at most that of the all-ones bits
(R120, R171). -/
theorem field_range {s : State} {w : Nat} {f : FieldSpec} {v : BitVec w} (hf : fitsRegister w f = true)
    (h : s.field w f = .ok v) : v.toNat ≤ f.scale * (2 ^ bitCount f.src - 1) ∧ f.scale ∣ v.toNat := by
  simp only [fitsRegister, Bool.and_eq_true, decide_eq_true_eq] at hf
  obtain ⟨hu, hw⟩ := hf
  obtain ⟨raw, hraw, ⟨⟩⟩ := bind_eq_ok_iff.mp h
  obtain ⟨n, hn, rfl⟩ := extract_lt hu hraw
  have hv : (BitVec.ofInt w (scaleMux f.scale n)).toNat = f.scale * n := by
    rw [scaleMux, ← Nat.cast_mul, BitVec.ofInt_natCast, BitVec.toNat_ofNat, Nat.mod_eq_of_lt (scaled_lt hw hn)]
  rw [hv]
  exact ⟨Nat.mul_le_mul_left _ (Nat.le_sub_one_of_lt hn), Nat.dvd_mul_right _ _⟩

/-! ### The scaled fields of a record -/

/-- The scaled fields of a Positional record are its parser's reads of their operands (R141, R143). -/
theorem scaledFields_of_parsePositional {s : State} {r : PositionalRecord}
    (h : parsePositional s = .ok (.positional r)) :
    s.field 9 Layout.headingDeg = .ok r.headingDeg ∧ s.field 13 Layout.battMv = .ok r.battMv := by
  simp only [parsePositional, bind_eq_ok_iff] at h
  obtain ⟨_, -, _, -, _, -, _, -, _, hHeading, _, -, _, hBatt, ⟨⟩⟩ := h
  exact ⟨hHeading, hBatt⟩

/-- The ×32 counters of a Device Statistics record are its parser's reads of their operands (R171). -/
theorem counters_of_parseDeviceStats {s : State} {r : DeviceStatsRecord}
    (h : parseDeviceStats s = .ok (.deviceStats r)) :
    s.field 16 Layout.txCount = .ok r.txCount ∧ s.field 13 Layout.rxCount = .ok r.rxCount ∧
      s.field 15 Layout.gpsSuccessCount = .ok r.gpsSuccessCount ∧
      s.field 13 Layout.gpsFailureCount = .ok r.gpsFailureCount := by
  simp only [parseDeviceStats, bind_eq_ok_iff] at h
  obtain ⟨_, -, _, hTx, _, hRx, _, -, _, hSuccess, _, hFailure, _, -, _, -, _, -, _, -, ⟨⟩⟩ := h
  exact ⟨hTx, hRx, hSuccess, hFailure⟩

/-- A record operation that wrote anything but TruncatedPayload wrote what its parser gave (R128). -/
theorem parse_of_withLength {s t : State} {need : Nat} {parse : State → Except Stop Result} {r : Result}
    (h : s.withLength need parse = .next t) (ht : t.res = some r) (hr : r ≠ .errTruncated) : parse s = .ok r := by
  obtain ⟨len, -, ⟨-, rfl⟩ | ⟨-, r', hparse, rfl⟩⟩ := State.withLength_next h
  · exact absurd (Option.some.inj ht).symm hr
  · rw [hparse, Option.some.inj ht]

/-- Settles O14: a record's scaled fields are answered reads, and each register holds its operand's bits at its scale. -/
theorem resultFieldsInRange : Obligations.ResultFieldsInRange := by
  refine fun s t => ⟨fun r hexec hres => ?_, fun r hexec hres => ?_⟩
  · obtain ⟨hHeading, hBatt⟩ := scaledFields_of_parsePositional (parse_of_withLength hexec hres nofun)
    obtain ⟨hHeadingLe, hHeadingDvd⟩ := field_range (by decide) hHeading
    obtain ⟨hBattLe, hBattDvd⟩ := field_range (by decide) hBatt
    exact ⟨hHeadingLe, hHeadingDvd, hBattLe, hBattDvd⟩
  · obtain ⟨hTx, hRx, hSuccess, hFailure⟩ := counters_of_parseDeviceStats (parse_of_withLength hexec hres nofun)
    obtain ⟨hTxLe, hTxDvd⟩ := field_range (by decide) hTx
    obtain ⟨hRxLe, hRxDvd⟩ := field_range (by decide) hRx
    obtain ⟨hSuccessLe, hSuccessDvd⟩ := field_range (by decide) hSuccess
    obtain ⟨hFailureLe, hFailureDvd⟩ := field_range (by decide) hFailure
    exact ⟨hTxLe, hTxDvd, hRxLe, hRxDvd, hSuccessLe, hSuccessDvd, hFailureLe, hFailureDvd⟩

end Sys2Proof.Proofs
end

section
/-! PROOFS. The statements of 60_exceptions.md: the three outcomes that hold no record (R176, R177, R178), and that
instances share no state (R191). -/

namespace Sys2Proof.Proofs

open Sys2Proof Sys2Proof.Machine Sys2Proof.Reference

/-! ### The outcomes without a record -/

/-- A step with a REQUEST pending writes whatever outcome the payload has, and all else as R39 says (R33, R125). -/
theorem step_request_of_outcomeOf {s : State} {rest : List HostOp} {p : List Byte} {r : Result}
    (hp : s.pending = .request p :: rest) (hout : OutcomeOf s.dlDataMode p r) :
    step s = .next ({ s with
      pending := rest, plen := some p.length, pbuf := Memory.load p, res := some r, phase := .done,
      reply := some (.response r) } : State) := by
  obtain ⟨r', hout', hstep⟩ := requestGivesSpecifiedOutcome s rest p hp
  have hr : r' = r := ((outcomeOf_iff _ _ _).mp hout').trans ((outcomeOf_iff _ _ _).mp hout).symm
  rwa [hr] at hstep

/-- The lowest four bits of a payload are its masked byte 0 (R70). -/
theorem payloadBits_tag (b : Byte) (p : List Byte) : payloadBits (b :: p) 0 4 = (b &&& 0x0F#8).toNat := by
  rw [toNat_and_mask, recordTag_toNat]

/-- A tag outside the record types has its outcome at every length from one byte (R178). -/
theorem outcomeOf_noneUnrecognized {mode : DlDataMode} {b : Byte} {p : List Byte} (htag : 3 ≤ (b &&& 0x0F#8).toNat) :
    OutcomeOf mode (b :: p) .noneUnrecognized := by
  rw [← payloadBits_tag b p] at htag
  have hne : (b :: p).length ≠ 0 := Nat.succ_ne_zero p.length
  simp only [OutcomeOf, if_neg hne, if_pos htag]

/-- A record type's payload below its minimum has its outcome whatever its later bytes (R177). -/
theorem outcomeOf_errTruncated {mode : DlDataMode} {b : Byte} {p : List Byte} (htag : (b &&& 0x0F#8).toNat < 3)
    (hshort : (b :: p).length < minimumFor mode (b &&& 0x0F#8).toNat) : OutcomeOf mode (b :: p) .errTruncated := by
  rw [← payloadBits_tag b p] at htag hshort
  have hne : (b :: p).length ≠ 0 := Nat.succ_ne_zero p.length
  simp only [OutcomeOf, if_neg hne, if_neg (Nat.not_le_of_lt htag), if_pos hshort]

/-- The thirteen operations look at nothing (R127). -/
theorem exec_unrecognized {i : Instr} (hi : i ∈ unrecognizedOps) (s : State) :
    exec i s = .next (s.endTransaction .noneUnrecognized) := by
  cases i with
  | positional | downlinkAck | deviceStats => exact absurd hi (by decide)
  | _ => rfl

/-- Settles O8: the thirteen operations have one meaning, and a request's outcome is decided by its tag before its length
(R129). -/
theorem unrecognizedTagsGiveNoResult : Obligations.UnrecognizedTagsGiveNoResult := by
  refine ⟨rfl, fun i hi s => exec_unrecognized hi s, fun s rest b p hp htag => ?_⟩
  exact ⟨_, step_request_of_outcomeOf hp (outcomeOf_noneUnrecognized htag), rfl, rfl, rfl⟩

/-- Settles O9: each record operation's first act is the length check, and a request's outcome is decided by its length
before any later byte (R128). -/
theorem shortPayloadGivesTruncated : Obligations.ShortPayloadGivesTruncated := by
  refine ⟨rfl, fun s len hlen => ⟨fun hshort => ?_, fun hshort => ?_, fun hshort => ?_⟩,
    fun s rest b p hp htag hshort => ?_⟩
  · exact State.withLength_short parsePositional hlen hshort
  · rw [← minLength_downlinkAck] at hshort
    exact State.withLength_short parseDownlinkAck hlen hshort
  · exact State.withLength_short parseDeviceStats hlen hshort
  · exact ⟨_, step_request_of_outcomeOf hp (outcomeOf_errTruncated htag hshort), rfl, rfl, rfl⟩

/-- Settles O2: a payload without bytes is empty input before it has a tag (R126, R129). -/
theorem emptyPayloadGivesNoneEmpty : Obligations.EmptyPayloadGivesNoneEmpty :=
  fun _ _ hp => ⟨step_request_of_outcomeOf hp rfl, rfl⟩

/-! ### Several instances -/

/-- Everything a step in place `k` can do as a next list: put the next state of the one there in that place (R191). -/
theorem stepInstance_eq_next_iff {all after : List State} {k : Nat} {s : State} (hk : all[k]? = some s) :
    stepInstance all k = .next after ↔ ∃ t, step s = .next t ∧ after = all.set k t := by
  simp only [stepInstance, hk]
  cases step s with
  | next t => simp [eq_comm]
  | fault f => simp
  | refused r => simp

/-- Settles O47: the one change is in place `k`, and it is the step of the state that stood there. -/
theorem instancesAreIndependent : Obligations.InstancesAreIndependent := by
  intro all others k s hall hothers after hstep
  obtain ⟨t, ht, rfl⟩ := (stepInstance_eq_next_iff hall).mp hstep
  obtain ⟨hlt, -⟩ := List.getElem?_eq_some_iff.mp hall
  obtain ⟨hlt', -⟩ := List.getElem?_eq_some_iff.mp hothers
  refine ⟨fun j hj => List.getElem?_set_ne hj.symm, List.length_set, ?_⟩
  exact ⟨t, others.set k t, ht, List.getElem?_set_self hlt,
    (stepInstance_eq_next_iff hothers).mpr ⟨t, ht, rfl⟩, List.getElem?_set_self hlt'⟩

end Sys2Proof.Proofs
end

section
/-! PROOFS. The statement of 70_reset_and_hazards.md: what takes `PHASE` back to `IDLE` (R195). -/

namespace Sys2Proof.Proofs

open Sys2Proof Sys2Proof.Machine

/-- A request that completes ends with `PHASE = DONE`, whatever the phase was (R33). -/
theorem phase_of_request {s t : State} {p : List Byte} (h : request s p = .next t) : t.phase = .done := by
  obtain ⟨r, rfl⟩ := request_next h
  rfl

/-- Settles O32: of everything a step can do from `DONE`, idling and answering keep the phase and a request ends in
`DONE`, which leaves the reset. -/
theorem onlyResetSetsIdle : Obligations.OnlyResetSetsIdle := by
  intro s t hstep hdone hidle
  have hne : t.phase ≠ .done := by simp [hidle]
  obtain ⟨-, rfl⟩ | ⟨op, rest, hp, ⟨rfl, -⟩ | ⟨y, rfl⟩ | ⟨p, -, hreq⟩⟩ := step_cases hstep
  · exact absurd hdone hne
  · exact ⟨rest, hp⟩
  · exact absurd hdone hne
  · exact absurd (phase_of_request hreq) hne

end Sys2Proof.Proofs
end
